-- ==== Sys2Proof/Word.lean ====
section
/-!
DEFINITION. The words that cross the ports of the fanpico tachometer block (spec/30_encoding.md R56 to R58).
Registers that the spec treats as `W`-bit natural numbers (00_scope.md R7) are plain `Nat`s in the state and are
narrowed by `mod 2^W` where the spec narrows them.
-/

namespace Sys2Proof

/-- A format E request, a channel index field, an operation code or a status code: 8 bits. -/
abbrev Byte := BitVec 8

/-- A data word, a result word or a binary32 pattern: 32 bits. -/
abbrev Word := BitVec 32

/-- A format C command, `DATA ++ CMD`: 64 bits (R57). -/
abbrev Command := BitVec 64

end Sys2Proof
end

