-- ==== Sys2Proof/Machine/Binary32.lean ====
section
/-!
DEFINITION. The stored frequency format: binary32 patterns (spec/42_frequency_estimator.md R93, PRESUMED by the spec itself:
general knowledge G1) and rounding an exact quotient to the nearest pattern (the default of R92). Exact quotients are pairs of
natural numbers; magnitudes are counted in units of `2^-149`, the value of the smallest subnormal, so that every comparison is
exact natural-number arithmetic.
-/

namespace Sys2Proof.Machine

/-- The exponent field, bits 30:23 (R93). -/
def expField (b : Word) : Nat := (b.extractLsb' 23 8).toNat

/-- The fraction field, bits 22:0 (R93). -/
def fracField (b : Word) : Nat := (b.extractLsb' 0 23).toNat

/-- The sign bit, bit 31 (R93). -/
def signBit (b : Word) : Bool := b.getLsbD 31

/-- Neither an infinity nor a NaN: the exponent field is not `0xFF` (R93). -/
def isFinite (b : Word) : Bool := decide (expField b ≠ 255)

/-- `val32(b)`, the rational value of a finite pattern, as R93 writes it. Used by statements; the machine computes with
`magnitude`. -/
def val32 (b : Word) : ℚ :=
  (if signBit b then -1 else 1) *
    (if expField b = 0 then (2 : ℚ) ^ (-149 : ℤ) * fracField b
     else (2 : ℚ) ^ ((expField b : ℤ) - 150) * (2 ^ 23 + fracField b))

/-- The value of the non-negative pattern numbered `p`, in units of `2^-149`: `f` when the exponent field is 0, else
`(2^23 + f) * 2^(x - 1)` (R93). -/
def magnitude (p : Nat) : Nat :=
  if p / 2 ^ 23 = 0 then p % 2 ^ 23 else (2 ^ 23 + p % 2 ^ 23) * 2 ^ (p / 2 ^ 23 - 1)

/-- A pattern without its sign bit, as a number. -/
def unsignedPattern (b : Word) : Nat := b.toNat % 2 ^ 31

/-- `0x7F7F_FFFF`, the largest finite pattern (R93). -/
def maxFinite : Nat := 0x7F7FFFFF

/-- A finite pattern with sign bit 0: what `FREQ[i]` always holds (R13). -/
def FiniteNonneg (b : Word) : Prop := b.toNat ≤ maxFinite

/-- The pattern numbered `c` is finite and its value is at most `num / den`. -/
def fitsBelow (num den c : Nat) : Bool :=
  decide (c ≤ maxFinite) && decide (magnitude c * den ≤ num * 2 ^ 149)

/-- The search for the largest pattern below `num / den`, one bit at a time from bit `k - 1` down. -/
def floorBits (num den : Nat) : Nat → Nat → Nat
  | 0, acc => acc
  | k + 1, acc => floorBits num den k (if fitsBelow num den (acc + 2 ^ k) then acc + 2 ^ k else acc)

/-- The number of the largest finite pattern whose value is at most `num / den`. -/
def floorPattern (num den : Nat) : Nat := floorBits num den 31 0

/-- Whether `num / den`, which lies at or above pattern `b` and below the next, is rounded to the next pattern: to nearest, ties to
the even pattern (the default of R92). -/
def roundsUp (num den b : Nat) : Bool :=
  let x := num * 2 ^ 149
  let lo := magnitude b * den
  let hi := magnitude (b + 1) * den
  decide (lo + hi < 2 * x) || (decide (2 * x = lo + hi) && decide (b % 2 = 1))

/-- `num / den` rounded to nearest, ties to even, once (the default of R92), for `den > 0`; a quotient beyond the largest finite
pattern gives that pattern, since R92 admits no infinity (DEDUCED, log 8; it does not occur with `CW = 32`). -/
def nearestEvenRound (num den : Nat) : Word :=
  let b := floorPattern num den
  BitVec.ofNat 32 (if b < maxFinite && roundsUp num den b then b + 1 else b)

end Sys2Proof.Machine
end

