-- ==== Sys2Proof/Syntax.lean ====
section
/-!
DEFINITION. The closed set of seven operations (spec/30_encoding.md R60; 00_scope.md R2): one constructor for each
row of spec/opcode_table.json. Line identifiers and channel indexes are natural numbers; how many of them an
encoding can carry is Sys2Proof/WellFormed.lean's matter.
-/

namespace Sys2Proof

/-- The operations of the block, named after their mnemonics (R60, R66). -/
inductive Instr where
  /-- `ON_EDGE l`, the document's `on_edge(line)`; interrupt agent only (R77). -/
  | onEdge (line : Nat)
  /-- `INIT_IN`, the input-side setup (R80). -/
  | initIn
  /-- `INIT_OUT`, the document's `initialize_outputs()` (R121). -/
  | initOut
  /-- `POLL`, the document's `poll()` (R85). -/
  | poll
  /-- `SET_FREQ j, hz`, the document's `set_output_frequency(channel, hz)`; `hz` is a binary32 pattern (R123). -/
  | setFreq (channel : Nat) (hz : Word)
  /-- `GET_FREQ i` (R96). -/
  | getFreq (channel : Nat)
  /-- `GET_FLAGS i` (R97). -/
  | getFlags (channel : Nat)
deriving DecidableEq, Repr

end Sys2Proof
end

