-- ==== Sys2Proof/WellFormed.lean ====
section
/-!
DEFINITION. Which operations an encoding can carry: the `LINE` field and the `IDX` field are 8 bits wide
(spec/30_encoding.md R56, R57). Whether an index names an existing channel is no matter of form: that is the
`ERR_INDEX` check of the operation itself (R59, R64).
-/

namespace Sys2Proof

/-- The operands fit their fields: `LINE` and `IDX` are unsigned 8-bit numbers (R56, R57). -/
def Instr.wellFormed : Instr → Bool
  | .onEdge line => decide (line < 256)
  | .initIn => true
  | .initOut => true
  | .poll => true
  | .setFreq channel _ => decide (channel < 256)
  | .getFreq channel => decide (channel < 256)
  | .getFlags channel => decide (channel < 256)

end Sys2Proof
end

