-- ==== Sys2Proof/Decode.lean ====
section
/-!
DEFINITION. The decoder, total on all 2^64 command words and all 2^8 edge requests (spec/30_encoding.md R61), the encoder
written from the same layouts (R56, R57), and the opcode rows of R60. The port a word arrives on tells its format (R65).
-/

namespace Sys2Proof

/-- A word together with the port it arrives on (R55, R65). -/
inductive PortWord where
  /-- Format E on the edge port (R56). -/
  | edge (request : Byte)
  /-- Format C on the command port (R57). -/
  | command (word : Command)
deriving DecidableEq, Repr

/-- Why a format C word is illegal, in the order of R61. -/
inductive Illegal where
  /-- (a) `OPC` is `0x00` or `0x07` to `0xFF`. -/
  | unknownOpcode
  /-- (b) `RSV` is not zero. -/
  | reservedNotZero
  /-- (c) a field the operation does not use is not zero. -/
  | unusedNotZero
deriving DecidableEq, Repr

/-- What the decoder answers. -/
inductive Decoded where
  | instr (i : Instr)
  | illegal (why : Illegal)
deriving DecidableEq, Repr

/-- `DATA`, bits 63:32 of a command (R57). -/
def Command.data (w : Command) : Word := w.extractLsb' 32 32

/-- `OPC`, bits 31:24 of a command (R57). -/
def Command.opc (w : Command) : Byte := w.extractLsb' 24 8

/-- `IDX`, bits 23:16 of a command (R57). -/
def Command.idx (w : Command) : Byte := w.extractLsb' 16 8

/-- `RSV`, bits 15:0 of a command (R57). -/
def Command.rsv (w : Command) : BitVec 16 := w.extractLsb' 0 16

/-- The operation, if the fields it does not use are zero (R61 (c), R62). -/
def Decoded.ifZero (unusedZero : Bool) (i : Instr) : Decoded :=
  if unusedZero then .instr i else .illegal .unusedNotZero

/-- The operation that `OPC` selects, once `RSV` is known to be zero (R60, R62). -/
def decodeFields (opc idx : Byte) (data : Word) : Decoded :=
  if opc = 0x01 then .ifZero (idx == 0 && data == 0) .initIn
  else if opc = 0x02 then .ifZero (idx == 0 && data == 0) .initOut
  else if opc = 0x03 then .ifZero (idx == 0 && data == 0) .poll
  else if opc = 0x04 then .instr (.setFreq idx.toNat data)
  else if opc = 0x05 then .ifZero (data == 0) (.getFreq idx.toNat)
  else if opc = 0x06 then .ifZero (data == 0) (.getFlags idx.toNat)
  else .illegal .unknownOpcode

/-- Decoding a format C command (R57 to R62). -/
def decodeCommand (w : Command) : Decoded :=
  if w.opc = 0x00 ∨ 0x07 ≤ w.opc then .illegal .unknownOpcode
  else if w.rsv ≠ 0 then .illegal .reservedNotZero
  else decodeFields w.opc w.idx w.data

/-- Decoding a format E request: every 8-bit value is an `ON_EDGE` of that line (R56). -/
def decodeEdge (request : Byte) : Instr := .onEdge request.toNat

/-- Decoding whatever arrives on a port (R65). -/
def decode : PortWord → Decoded
  | .edge request => .instr (decodeEdge request)
  | .command w => decodeCommand w

/-- The fields of a command laid out as R57 says: `DATA ++ OPC ++ IDX ++ RSV`, `RSV = 0`. -/
def encodeFields (opc idx : Byte) (data : Word) : Command :=
  data ++ (opc ++ (idx ++ (0 : BitVec 16)))

/-- The word of a well-formed operation and the port it belongs to (R56, R57, R60). -/
def encode : Instr → PortWord
  | .onEdge line => .edge (BitVec.ofNat 8 line)
  | .initIn => .command (encodeFields 0x01 0 0)
  | .initOut => .command (encodeFields 0x02 0 0)
  | .poll => .command (encodeFields 0x03 0 0)
  | .setFreq channel hz => .command (encodeFields 0x04 (BitVec.ofNat 8 channel) hz)
  | .getFreq channel => .command (encodeFields 0x05 (BitVec.ofNat 8 channel) 0)
  | .getFlags channel => .command (encodeFields 0x06 (BitVec.ofNat 8 channel) 0)

/-- A row of the opcode map: a command selects it when `(word AND mask) = match` (R60). -/
structure OpcodeRow where
  pattern : Command
  mask : Command
deriving DecidableEq, Repr

/-- `(word AND mask) = match` (R60). -/
def OpcodeRow.selects (r : OpcodeRow) (w : Command) : Bool := w &&& r.mask == r.pattern

/-- The format C rows of R60, in the table's order: `INIT_IN`, `INIT_OUT`, `POLL`, `SET_FREQ`, `GET_FREQ`, `GET_FLAGS`. -/
def opcodeRows : List OpcodeRow :=
  [ { pattern := 0x0000000001000000, mask := 0xFFFFFFFFFFFFFFFF },
    { pattern := 0x0000000002000000, mask := 0xFFFFFFFFFFFFFFFF },
    { pattern := 0x0000000003000000, mask := 0xFFFFFFFFFFFFFFFF },
    { pattern := 0x0000000004000000, mask := 0x00000000FF00FFFF },
    { pattern := 0x0000000005000000, mask := 0xFFFFFFFFFF00FFFF },
    { pattern := 0x0000000006000000, mask := 0xFFFFFFFFFF00FFFF } ]

/-- The place of an operation's row in `opcodeRows`; `ON_EDGE` has no format C row (R60). -/
def Instr.rowIndex : Instr → Option Nat
  | .onEdge _ => none
  | .initIn => some 0
  | .initOut => some 1
  | .poll => some 2
  | .setFreq _ _ => some 3
  | .getFreq _ => some 4
  | .getFlags _ => some 5

/-- The port word of the first `nbits` bits of an instruction, all higher bits zero: 8 bits are a format E request and
9 to 64 bits a format C command; no instruction is longer (R56, R57, R65). -/
def portWordOfBits (nbits w : Nat) : Option PortWord :=
  if nbits ≤ 8 then some (.edge (BitVec.ofNat 8 (w % 2 ^ nbits)))
  else if nbits ≤ 64 then some (.command (BitVec.ofNat 64 (w % 2 ^ nbits)))
  else none

/-- The instruction the decoder reads from an instruction whose bits are `w`, numbered as spec/opcode_table.json numbers
them; `none` where the decoder refuses. -/
def decodeTableWord (nbits w : Nat) : Option Instr :=
  match portWordOfBits nbits w with
  | none => none
  | some p =>
    match decode p with
    | .instr i => some i
    | .illegal _ => none

end Sys2Proof
end

