-- ==== Sys2Proof/Config.lean ====
section
/-!
DEFINITION. The parameters of the block (spec/00_scope.md R6, 10_state.md R33), the events its environment can bring
(20_memory.md R48, 30_encoding.md R67), and the free values: what the spec leaves open and nothing in Lean can evaluate.
A parameter is the same in every state of a run (R33): it is carried by the state and written by no step.
-/

namespace Sys2Proof

/-- A transition of a line, and the polarity that is counted: `FALL = 0`, `RISE = 1` (R18, R75). -/
inductive Edge where
  | fall
  | rise
deriving DecidableEq, Repr, Inhabited

/-- The parameter `FreqRound` of R6 and R92: the default, or a device's own rounding. -/
inductive Rounding where
  /-- IEEE 754 binary32, round to nearest, ties to even, one rounding (the default of R92). -/
  | nearestEven
  /-- The device's own function, any that R92 admits: `Config.deviceRound`. -/
  | device
deriving DecidableEq, Repr

/-- What R92 lets a model assume of `FreqRound`, exactly: a function of the quotient alone; 0 for 0; a finite non-negative pattern; the
quotient's own pattern where it has one; monotone. -/
structure AdmissibleRound (round : ℚ → Word) : Prop where
  zero : round 0 = 0
  finite : ∀ q, 0 ≤ q → Machine.FiniteNonneg (round q)
  exact : ∀ (q : ℚ) (b : Word), Machine.FiniteNonneg b → Machine.val32 b = q → round q = b
  mono : ∀ q q' : ℚ, 0 ≤ q → q ≤ q' → Machine.val32 (round q) ≤ Machine.val32 (round q')

/-- The rounding function of a device: the default, or any admissible function. -/
inductive DeviceRound where
  | nearestEven
  | admissible (round : ℚ → Word) (h : AdmissibleRound round)
deriving Inhabited

/-- One indivisible step of one agent (R48), as the script syntax of R67 names it. -/
inductive Event where
  /-- The clock agent ticks (R128). -/
  | tick
  /-- The environment drives one transition of a line (R75). -/
  | transition (line : Nat) (edge : Edge)
  /-- The interrupt agent serves one pending request of a line (R76). -/
  | serve (line : Byte)
  /-- The interrupt agent brings an `ON_EDGE` for an unmapped line, with no `PEND` bookkeeping (R78). -/
  | spurious (line : Byte)
  /-- The host puts a command on the command port (R55, R69). -/
  | command (word : Command)
  /-- The host takes the next micro-step of the `POLL` in progress (R86). -/
  | pollStep
  /-- The reset input is asserted and released (R160). -/
  | reset
deriving DecidableEq, Repr, Inhabited

/-- The parameters of R6, and the two soundness parameters that 93_implementation_defined.md U9 allows. -/
structure Config where
  /-- `N`, the number of input channels. -/
  n : Nat
  /-- `M`, the number of output channels. -/
  m : Nat
  /-- `L`, the number of line identifiers. -/
  l : Nat
  /-- `B`, the number of timing-block instances that exist. -/
  b : Nat
  /-- `LINE_OF[i]`, the line wired to input channel `i`. -/
  lineOf : List Nat
  /-- `POL[i]`, the transition of channel `i`'s line that is counted. -/
  pol : List Edge
  /-- `CW`, the width of `CNT`, `PREV` and `SNAP`. -/
  cw : Nat
  /-- `TW`, the width of the clock timestamp. -/
  tw : Nat
  /-- `HPW`, the width of `HP` and `CD`. -/
  hpw : Nat
  /-- `FreqRound`. -/
  rounding : Rounding
  /-- U9: the interrupt hardware can be registered. -/
  inputSound : Bool
  /-- U9: the timing-block hardware can be set up. -/
  outputSound : Bool
deriving DecidableEq, Repr

/-- The configuration V of spec/95_test_vectors.md section 0; the values R6 leaves open are DESIGN CHOICE (log 1). -/
def Config.reference : Config where
  n := 4
  m := 2
  l := 32
  b := 2
  lineOf := [2, 3, 4, 5]
  pol := [.fall, .rise, .rise, .rise]
  cw := 32
  tw := 64
  hpw := 32
  rounding := .nearestEven
  inputSound := true
  outputSound := true

/-- The ranges R6 gives the parameters. Widths are at least 1, and `HPW` is at most 32 because `HP[j]` is the
32-bit result of `SET_FREQ` (R58, R123); these two bounds are DEDUCED (log 9). `LINE_OF` may still break the invariants of
R82, and `B` may be below `M`: those are `ERR_CONFIG`, not impossible parameters. -/
def Config.wf (c : Config) : Bool :=
  decide (1 ≤ c.n ∧ c.n ≤ 256) && decide (1 ≤ c.m ∧ c.m ≤ 256) && decide (1 ≤ c.l ∧ c.l ≤ 256)
    && decide (c.lineOf.length = c.n) && decide (c.pol.length = c.n)
    && decide (1 ≤ c.cw) && decide (1 ≤ c.tw) && decide (1 ≤ c.hpw ∧ c.hpw ≤ 32)

/-- `LINE_OF[i]` (R6). -/
def Config.line (c : Config) (i : Nat) : Nat := c.lineOf.getD i 0

/-- `POL[i]` (R6); the default policy is `FALL` for channel 0 and `RISE` for the others (R81). -/
def Config.polarity (c : Config) (i : Nat) : Edge := c.pol.getD i (if i = 0 then .fall else .rise)

/-- `WINDOW_US`: the document's 1,000,000 µs, not a free parameter (R6, R89). -/
abbrev windowUs : Nat := 1000000

/-- FREE VALUE (log 3): the event that happens when the list of scheduled events is used up. The order in which the agents
step, and what the environment and the host do, is left open (R48, U5); nothing constrains this constant. -/
opaque Config.freeEvent : Nat → Event

/-- FREE VALUE (log 8): the rounding function of a device whose `FreqRound` is not the default. Nothing is known of it but what R92
lets a model assume. -/
opaque Config.deviceRound : DeviceRound

end Sys2Proof
end

