-- ==== Sys2Proof/Machine/State.lean ====
section
/-!
DEFINITION. The state of the block as plain data: every register of spec/10_state.md R11 to R26, the clock's `T`, the
parameters, the response port and the events still to happen. Register arrays are lists indexed as the spec indexes them.
-/

namespace Sys2Proof.Machine

/-- The status codes of R63. -/
inductive Status where
  | ok
  | errIllegal
  | errIndex
  | errRange
  | errNotInit
  | errAlreadyInit
  | errConfig
deriving DecidableEq, Repr

/-- The response to a command: `STATUS` and `RESULT` (R58). -/
structure Response where
  status : Status
  result : Word
deriving DecidableEq, Repr

/-- `PHASE`, and with it the poll context's scratch `SNAP` and `TS`, which have no value outside a `POLL` (R26, R32).
`LOADING(k)` is `loading snap` with `k` the length of `snap`, the counters loaded so far. -/
inductive Phase where
  | idle
  | loading (snap : List Nat)
  | sampled (snap : List Nat) (ts : Nat)
deriving DecidableEq, Repr

/-- The state of the block. -/
structure State where
  /-- The parameters (R6, R33); no step writes them. -/
  cfg : Config
  /-- `CNT[i]` (R11). -/
  cnt : List Nat
  /-- `PREV[i]` (R12). -/
  prev : List Nat
  /-- `FREQ[i]` (R13). -/
  freq : List Word
  /-- `OVF[i]` (R15). -/
  ovf : List Bool
  /-- `LINEMAP[l]`; `none` is the sentinel `NONE` (R14). -/
  lineMap : List (Option Nat)
  /-- `IRQ_EN[l]` (R18). -/
  irqEn : List Bool
  /-- `IRQ_POL[l]` (R18). -/
  irqPol : List Edge
  /-- `PEND[l]` (R25). -/
  pend : List Nat
  /-- `TLAST` (R16). -/
  tlast : Nat
  /-- `IN_INIT` (R17). -/
  inInit : Bool
  /-- `HZ[j]` (R19). -/
  hz : List Word
  /-- `HP[j]` (R21). -/
  hp : List Nat
  /-- `BIND[j]` (R20). -/
  bind : List Nat
  /-- `EN[j]` (R20). -/
  en : List Bool
  /-- `CD[j]` (R23). -/
  cd : List Nat
  /-- `OUT[j]` (R23). -/
  out : List Bool
  /-- `OUT_INIT` (R24). -/
  outInit : Bool
  /-- `PHASE`, `SNAP`, `TS` (R26). -/
  phase : Phase
  /-- `T`, the clock agent's true time in microseconds (R22). -/
  t : Nat
  /-- The response last returned on the command port; absent before the first and while a `POLL` is in progress (R55, R58). -/
  response : Option Response
  /-- The events still to happen, in order (R48, R67; log 3). -/
  inputs : List Event
  /-- How many free events have been drawn (the model's own counter, log 3). -/
  drawn : Nat
deriving DecidableEq, Repr

/-- Why the machine would stop with a fault. There is no reason: the block has no trap (R140) and never halts (R159), and
the model raises none. The type is closed and empty (log 14). -/
inductive Fault where
deriving DecidableEq, Repr

/-- Why the model would give an operation no meaning. -/
inductive Refusal where
  /-- An operation without a meaning in this model; raised by an arm of `exec` only, and no arm raises it. Safe: a run stops. -/
  | notModelled (mnemonic : String)
deriving DecidableEq, Repr

/-- The reset state of a block with the parameters `c`, released when the clock's true time is `t` (R32, R160, R161):
everything 0, the map empty, `PHASE = IDLE`; the clock is not reset. -/
def State.resetAt (c : Config) (t : Nat) : State where
  cfg := c
  cnt := List.replicate c.n 0
  prev := List.replicate c.n 0
  freq := List.replicate c.n 0
  ovf := List.replicate c.n false
  lineMap := List.replicate c.l none
  irqEn := List.replicate c.l false
  irqPol := List.replicate c.l .fall
  pend := List.replicate c.l 0
  tlast := 0
  inInit := false
  hz := List.replicate c.m 0
  hp := List.replicate c.m 0
  bind := List.replicate c.m 0
  en := List.replicate c.m false
  cd := List.replicate c.m 0
  out := List.replicate c.m false
  outInit := false
  phase := .idle
  t := t
  response := none
  inputs := []
  drawn := 0

/-- The machine right after reset: configuration V (log 1) and `T = 0` (log 2), both DESIGN CHOICE; the rest as R32 says. -/
def State.reset : State := State.resetAt Config.reference 0

end Sys2Proof.Machine
end

