-- ==== Sys2Proof/Machine/Ops.lean ====
section
/-!
DEFINITION. The named operations over the registers: indexed reads and writes (spec/20_memory.md R41, R44 to R46), the
clock (10_state.md R22), answering a command (30_encoding.md R58), and `raise`, the ONE way an operation fails
(60_exceptions.md R141). There is no trap, no saved register and no return from one (R140, R150).
-/

namespace Sys2Proof.Machine

/-- Every operation answers one of the three outcomes of the host's interface. -/
abbrev Result := Host.Outcome State Fault Refusal

/-- The array whose element `i` is `f i`, for `i` in `0 .. n-1`: "for i in 0..n-1: A[i] <- f i". -/
def tabulate {α : Type} (n : Nat) (f : Nat → α) : List α := (List.range n).map f

/-- `A[i]`; an index that an array does not have reads as `d` (no step of a well-shaped state does so, log 18). -/
def readAt {α : Type} (d : α) (xs : List α) (i : Nat) : α := xs.getD i d

/-- `NOW = T mod 2^TW` (R22). -/
def State.now (s : State) : Nat := s.t % 2 ^ s.cfg.tw

/-- `atomic_load(CNT[i])`: one indivisible read of the whole word (R46). -/
def atomicLoad (s : State) (i : Nat) : Nat := readAt 0 s.cnt i

/-- `atomic_inc(CNT[c])`: `CNT[c] <- (CNT[c] + 1) mod 2^CW`, indivisible (R45). -/
def atomicInc (s : State) (c : Nat) : State :=
  { s with cnt := s.cnt.modify c fun x => (x + 1) % 2 ^ s.cfg.cw }

/-- `LINEMAP[l]` where `l < L`, else `NONE` (R77). -/
def mappedChannel (s : State) (line : Nat) : Option Nat :=
  if line < s.cfg.l then readAt none s.lineMap line else none

/-- The response of a command appears on the command port (R58). -/
def State.respond (s : State) (status : Status) (result : Word) : State :=
  { s with response := some { status := status, result := result } }

/-- The operation ends with `STATUS = OK` and a result word (R58, R63). -/
def succeed (s : State) (result : Word) : Result := .next (s.respond .ok result)

/-- `raise S`: the operation ends at once with status `S` and `RESULT = 0`, and no register is written (R141). -/
def raise (s : State) (status : Status) : Result := .next (s.respond status 0)

/-- The number of a status code (R63). -/
def Status.code : Status → Byte
  | .ok => 0x00
  | .errIllegal => 0x01
  | .errIndex => 0x02
  | .errRange => 0x03
  | .errNotInit => 0x04
  | .errAlreadyInit => 0x05
  | .errConfig => 0x06

/-- The 40-bit response word, `STATUS ++ RESULT` (R58). -/
def Response.word (r : Response) : BitVec 40 := r.status.code ++ r.result

/-- The next event: the head of the schedule, or a free event when the schedule is used up (log 3). -/
def State.withEvent (s : State) : State :=
  match s.inputs with
  | [] => { s with inputs := [Config.freeEvent s.drawn], drawn := s.drawn + 1 }
  | _ :: _ => s

/-- The schedule without its first event. -/
def State.popped (s : State) : State := { s with inputs := s.inputs.tail }

/-- The reset input: every register has its reset value, the clock and the schedule go on (R160, R161; log 11). -/
def hardReset (s : State) : State :=
  { State.resetAt s.cfg s.t with inputs := s.inputs, drawn := s.drawn }

/-- Brings a word to its port so that the very next step takes it. An edge request of an unmapped line needs nothing
(R78); one of a mapped line is raised first, as R76 wants it. A command needs the host between two commands (R69). -/
def placePortWord (s : State) : PortWord → State
  | .edge request =>
    match mappedChannel s request.toNat with
    | none => { s with inputs := .spurious request :: s.inputs }
    | some _ =>
      { s with pend := s.pend.modify request.toNat (· + 1), inputs := .serve request :: s.inputs }
  | .command w => { s with phase := .idle, inputs := .command w :: s.inputs }

/-- Brings the instruction whose first `nbits` bits are `w` to its port (log 13). -/
def placeTableWord (s : State) (nbits w : Nat) : State :=
  match portWordOfBits nbits w with
  | none => s
  | some p => placePortWord s p

end Sys2Proof.Machine
end

