-- ==== Sys2Proof/Machine/Operands.lean ====
section
/-!
DEFINITION. The checks and conversions of operands and parameters: the index ranges (spec/30_encoding.md R59), the data word
of `SET_FREQ` (45_pulse_synthesizer.md R124, R127), and the configuration checks of the two setup operations (41_edge_counter.md
R82, 45_pulse_synthesizer.md R122).
-/

namespace Sys2Proof.Machine

/-- `IDX` names an input channel: `i < N` (R59). -/
def inputIndexOk (s : State) (i : Nat) : Bool := decide (i < s.cfg.n)

/-- `IDX` names an output channel: `j < M` (R59). -/
def outputIndexOk (s : State) (j : Nat) : Bool := decide (j < s.cfg.m)

/-- `HzValid(hz)`: finite, and not below zero; `-0.0` is 0 (R124). -/
def hzValid (hz : Word) : Bool :=
  isFinite hz && (!signBit hz || decide (magnitude (unsignedPattern hz) = 0))

/-- `clamp(x, lo, hi) = max(lo, min(x, hi))` (R7). -/
def clamp (x lo hi : Nat) : Nat := max lo (min x hi)

/-- `HalfPeriod(hz)` for a valid `hz` (R127). With `v = mag / 2^149`, the exact `10^6 / (2 v) + 1/2` is
`(10^6 * 2^149 + mag) / (2 * mag)`, and natural-number division takes its floor. -/
def halfPeriod (c : Config) (hz : Word) : Nat :=
  let mag := magnitude (unsignedPattern hz)
  if mag = 0 then 0
  else clamp ((1000000 * 2 ^ 149 + mag) / (2 * mag)) 1 (2 ^ c.hpw - 1)

/-- `InputConfigValid` (R82): every `LINE_OF[i] < L`, and `LINE_OF` is injective. -/
def inputConfigValid (c : Config) : Bool :=
  (List.range c.n).all fun i =>
    decide (c.line i < c.l) && (List.range c.n).all fun k => decide (c.line i = c.line k → i = k)

/-- `INIT_IN` can set the input side up: the parameters are valid (R82) and the interrupt hardware is sound (U9, log 10). -/
def inputSetupOk (c : Config) : Bool := inputConfigValid c && c.inputSound

/-- `INIT_OUT` can set the output side up: `B >= M` (R122) and the timing-block hardware is sound (U9, log 10). -/
def outputSetupOk (c : Config) : Bool := decide (c.m ≤ c.b) && c.outputSound

end Sys2Proof.Machine
end

