-- ==== Sys2Proof/Machine/EdgeCounter.lean ====
section
/-!
DEFINITION. The edge counter (spec/41_edge_counter.md): the edge detector (R75), the interrupt-side `ON_EDGE` (R77, R78) and
the setup operation `INIT_IN` (R80 to R82).
-/

namespace Sys2Proof.Machine

/-- The edge detector's reaction to a transition: a request is raised for the configured direction of an enabled
line, and for nothing else (R75). A line not below `L` does not exist. -/
def edgeDetect (line : Nat) (edge : Edge) (s : State) : State :=
  if readAt false s.irqEn line = true ∧ edge = readAt .fall s.irqPol line then
    { s with pend := s.pend.modify line (· + 1) }
  else s

/-- `PEND[l] <- PEND[l] - 1`, the first half of serving a request (R76). -/
def takeRequest (line : Nat) (s : State) : State :=
  { s with pend := s.pend.modify line (· - 1) }

/-- `ON_EDGE l`: increments the mapped channel's counter; an edge on an unmapped line is silently ignored (R77, R78). -/
def execOnEdge (line : Nat) (s : State) : Result :=
  match mappedChannel s line with
  | none => .next s
  | some c => .next (atomicInc s c)

/-- The map of a successful `INIT_IN`: every entry `NONE`, then `LINEMAP[LINE_OF[i]] <- i` (R80). -/
def builtLineMap (c : Config) : List (Option Nat) :=
  (List.range c.n).foldl (fun lm i => lm.set (c.line i) (some i)) (List.replicate c.l none)

/-- `IRQ_EN[LINE_OF[i]] <- 1` for every channel; the other entries keep their values (R80). -/
def enabledLines (c : Config) (irqEn : List Bool) : List Bool :=
  (List.range c.n).foldl (fun en i => en.set (c.line i) true) irqEn

/-- `IRQ_POL[LINE_OF[i]] <- POL[i]` for every channel; the other entries keep their values (R80, R81). -/
def policyOfLines (c : Config) (irqPol : List Edge) : List Edge :=
  (List.range c.n).foldl (fun pol i => pol.set (c.line i) (c.polarity i)) irqPol

/-- What a successful `INIT_IN` writes (R80). -/
def setupInputs (s : State) : State :=
  { s with
    lineMap := builtLineMap s.cfg
    irqEn := enabledLines s.cfg s.irqEn
    irqPol := policyOfLines s.cfg s.irqPol
    tlast := s.now
    inInit := true }

/-- `INIT_IN` (R80). -/
def execInitIn (s : State) : Result :=
  if s.inInit then raise s .errAlreadyInit
  else if !inputSetupOk s.cfg then raise s .errConfig
  else succeed (setupInputs s) 0

end Sys2Proof.Machine
end

