-- ==== Sys2Proof/Machine/Flags.lean ====
section
/-!
DEFINITION. The arithmetic and the flags of the estimator: the clock difference (spec/42_frequency_estimator.md R88), the
rate (R90) and its rounding `FreqRound` (R92), the negative delta and `OVF` (R91), and the result word of `POLL` (R95).
-/

namespace Sys2Proof.Machine

/-- `ElapsedUs(ref, now) = (now - ref) mod 2^TW` (R88). -/
def elapsedUs (c : Config) (ref now : Nat) : Nat :=
  (((now : Int) - (ref : Int)) % ((2 ^ c.tw : Nat) : Int)).toNat

/-- The negative-delta test of channel `i`: `SNAP[i] <u PREV[i]` (R91). -/
def negativeDelta (s : State) (snap : List Nat) (i : Nat) : Bool :=
  decide (readAt 0 snap i < readAt 0 s.prev i)

/-- `pulses = SNAP[i] - PREV[i]`, taken only when it is not negative (R90, R98). -/
def pulses (s : State) (snap : List Nat) (i : Nat) : Nat := readAt 0 snap i - readAt 0 s.prev i

/-- `FreqRound(num / den)` (R92), for `den > 0`: the default, or the device's own function of the exact quotient. -/
def freqRound (mode : Rounding) (num den : Nat) : Word :=
  match mode with
  | .nearestEven => nearestEvenRound num den
  | .device =>
    match Config.deviceRound with
    | .nearestEven => nearestEvenRound num den
    | .admissible round _ => round ((num : ℚ) / den)

/-- The new `FREQ[i]`: 0 for a negative delta (R91), else `FreqRound(pulses * 1_000_000 / e)` (R90). -/
def channelFreq (s : State) (snap : List Nat) (e i : Nat) : Word :=
  if negativeDelta s snap i then 0
  else freqRound s.cfg.rounding (pulses s snap i * 1000000) e

/-- Some channel has a negative delta in this computation (R91, R95). -/
def anyNegativeDelta (s : State) (snap : List Nat) : Bool :=
  (List.range s.cfg.n).any (negativeDelta s snap)

/-- The result of a computing `POLL`: bit 0 `COMPUTED`, bit 1 `ANY_OVF` (R95). -/
def pollResult (anyOvf : Bool) : Word := if anyOvf then 3 else 1

/-- `zext_32` of a flag (R97). -/
def flagWord (flag : Bool) : Word := if flag then 1 else 0

end Sys2Proof.Machine
end

