-- ==== Sys2Proof/Machine/Estimator.lean ====
section
/-!
DEFINITION. The frequency estimator (spec/42_frequency_estimator.md): `POLL` as its micro-steps (R85, R86), `GET_FREQ` (R96) and
`GET_FLAGS` (R97). `execPoll` is ONE indivisible step of the host: from `IDLE` the checks and the first micro-step, otherwise the
next micro-step (log 6).
-/

namespace Sys2Proof.Machine

/-- A micro-step with `snap` loaded so far: `L_k`, `SNAP[k] <- atomic_load(CNT[k])`, while `k < N`; then `S`, `TS <- NOW` (R86, R87). -/
def pollAdvance (s : State) (snap : List Nat) : State :=
  if snap.length < s.cfg.n then
    { s with phase := .loading (snap ++ [atomicLoad s snap.length]) }
  else { s with phase := .sampled snap s.now }

/-- What a computation writes: `FREQ`, `OVF`, `PREV` of every channel, and `TLAST` (R90, R91, R94). -/
def compute (s : State) (snap : List Nat) (ts : Nat) : State :=
  let e := elapsedUs s.cfg s.tlast ts
  { s with
    freq := tabulate s.cfg.n (channelFreq s snap e)
    ovf := tabulate s.cfg.n (negativeDelta s snap)
    prev := tabulate s.cfg.n (readAt 0 snap)
    tlast := ts }

/-- Micro-step `C`: throttled, nothing is written and the result is 0 (R89); otherwise the computation, and the result says so (R95).
The scratch is dropped either way. -/
def pollCommit (s : State) (snap : List Nat) (ts : Nat) : Result :=
  if elapsedUs s.cfg s.tlast ts < windowUs then succeed { s with phase := .idle } 0
  else succeed { compute s snap ts with phase := .idle } (pollResult (anyNegativeDelta s snap))

/-- `POLL` (R85, R86): the step of the host that `PHASE` says is next. -/
def execPoll (s : State) : Result :=
  match s.phase with
  | .idle =>
    if !s.inInit then raise s .errNotInit
    else .next (pollAdvance { s with response := none } [])
  | .loading snap => .next (pollAdvance s snap)
  | .sampled snap ts => pollCommit s snap ts

/-- `GET_FREQ i` (R96). -/
def execGetFreq (i : Nat) (s : State) : Result :=
  if !inputIndexOk s i then raise s .errIndex
  else succeed s (readAt 0 s.freq i)

/-- `GET_FLAGS i` (R97). -/
def execGetFlags (i : Nat) (s : State) : Result :=
  if !inputIndexOk s i then raise s .errIndex
  else succeed s (flagWord (readAt false s.ovf i))

end Sys2Proof.Machine
end

