-- ==== Sys2Proof/Machine/Synthesizer.lean ====
section
/-!
DEFINITION. The pulse synthesizer (spec/45_pulse_synthesizer.md): `INIT_OUT` (R121, R122), `SET_FREQ` (R123 to R127) and the tick
rule of the timing blocks (R128).
-/

namespace Sys2Proof.Machine

/-- What a successful `INIT_OUT` writes: every channel bound, enabled and stopped (R121). -/
def setupOutputs (s : State) : State :=
  { s with
    bind := tabulate s.cfg.m id
    en := tabulate s.cfg.m fun _ => true
    hz := tabulate s.cfg.m fun _ => 0
    hp := tabulate s.cfg.m fun _ => 0
    cd := tabulate s.cfg.m fun _ => 0
    out := tabulate s.cfg.m fun _ => false
    outInit := true }

/-- `INIT_OUT` (R121, R122). -/
def execInitOut (s : State) : Result :=
  if s.outInit then raise s .errAlreadyInit
  else if !outputSetupOk s.cfg then raise s .errConfig
  else succeed (setupOutputs s) 0

/-- `apply_half_period(j, hp)`: stop, start from stopped, or reprogram a running block without touching its phase (R125, R126). -/
def applyHalfPeriod (s : State) (j hp : Nat) : State :=
  if hp = 0 then
    { s with hp := s.hp.set j 0, cd := s.cd.set j 0, out := s.out.set j false }
  else if readAt 0 s.hp j = 0 then
    { s with hp := s.hp.set j hp, cd := s.cd.set j hp }
  else { s with hp := s.hp.set j hp }

/-- `SET_FREQ j, hz` (R123): index, range and state are checked in that order (R64). -/
def execSetFreq (j : Nat) (hz : Word) (s : State) : Result :=
  if !outputIndexOk s j then raise s .errIndex
  else if !hzValid hz then raise s .errRange
  else if !s.outInit then raise s .errNotInit
  else
    let hp := halfPeriod s.cfg hz
    succeed (applyHalfPeriod { s with hz := s.hz.set j hz } j hp) (BitVec.ofNat 32 hp)

/-- Output channel `j`'s timing block is enabled and not stopped (R128). -/
def blockRuns (s : State) (j : Nat) : Bool := readAt false s.en j && decide (readAt 0 s.hp j ≠ 0)

/-- `CD[j]` after a tick: reloaded at a toggle, else one less; a block that does not run keeps it (R128). -/
def tickedCd (s : State) (j : Nat) : Nat :=
  if blockRuns s j then
    if readAt 0 s.cd j ≤ 1 then readAt 0 s.hp j else readAt 0 s.cd j - 1
  else readAt 0 s.cd j

/-- `OUT[j]` after a tick: toggled when the count has run out (R128). -/
def tickedOut (s : State) (j : Nat) : Bool :=
  if blockRuns s j && decide (readAt 0 s.cd j ≤ 1) then !readAt false s.out j
  else readAt false s.out j

/-- The tick: `T <- T + 1` and, in the same step, one step of every timing block (R128). -/
def tick (s : State) : State :=
  { s with
    t := s.t + 1
    cd := tabulate s.cfg.m (tickedCd s)
    out := tabulate s.cfg.m (tickedOut s) }

end Sys2Proof.Machine
end

