-- ==== Sys2Proof/Machine/Dispatch.lean ====
section
/-! DEFINITION. One arm per operation, each one call of its meaning (spec/30_encoding.md R60). -/

namespace Sys2Proof.Machine

def exec (i : Instr) (s : State) : Host.Outcome State Fault Refusal :=
  match i with
  | .onEdge line => Sys2Proof.Machine.execOnEdge line s
  | .initIn => Sys2Proof.Machine.execInitIn s
  | .initOut => Sys2Proof.Machine.execInitOut s
  | .poll => Sys2Proof.Machine.execPoll s
  | .setFreq channel hz => Sys2Proof.Machine.execSetFreq channel hz s
  | .getFreq channel => Sys2Proof.Machine.execGetFreq channel s
  | .getFlags channel => Sys2Proof.Machine.execGetFlags channel s

end Sys2Proof.Machine
end

