-- ==== Sys2Proof/Machine/Agents.lean ====
section
/-!
DEFINITION. What each agent's step does (spec/20_memory.md R48): the interrupt agent (41_edge_counter.md R76, R78), the host
(30_encoding.md R61, R69; 42_frequency_estimator.md R86), the clock, the environment and the reset input. An event that its agent
cannot take at that moment is not taken: the schedule moves on and nothing else changes (log 4).
-/

namespace Sys2Proof.Machine

/-- The interrupt agent serves a request: enabled when `PEND[l] > 0` (R76). -/
def serveStep (request : Byte) (s : State) : Result :=
  if 0 < readAt 0 s.pend request.toNat then
    exec (decodeEdge request) (takeRequest request.toNat s)
  else .next s

/-- An `ON_EDGE` with no `PEND` bookkeeping: only for a line that is unmapped (R78). -/
def spuriousStep (request : Byte) (s : State) : Result :=
  match mappedChannel s request.toNat with
  | none => exec (decodeEdge request) s
  | some _ => .next s

/-- The host's command is taken from the port: decoded and run, or refused with `ERR_ILLEGAL` (R60, R61). -/
def commandStep (w : Command) (s : State) : Result :=
  match decodeCommand w with
  | .instr i => exec i s
  | .illegal _ => raise s .errIllegal

/-- The host's next micro-step, if a `POLL` is in progress (R86). -/
def pollStep (s : State) : Result :=
  if s.phase = .idle then .next s else exec .poll s

/-- The step of the agent that event `e` names, in the state `s` whose schedule still begins with `e`. A command waits for its
turn: while a `POLL` is in progress the host's step is that `POLL`'s next micro-step (R69, log 5). -/
def agentStep (e : Event) (s : State) : Result :=
  match e with
  | .tick => .next (tick s.popped)
  | .transition line edge => .next (edgeDetect line edge s.popped)
  | .serve request => serveStep request s.popped
  | .spurious request => spuriousStep request s.popped
  | .command w => if s.phase = .idle then commandStep w s.popped else exec .poll s
  | .pollStep => pollStep s.popped
  | .reset => .next (hardReset s.popped)

/-- The step of the agent whose turn it is: the first event of the schedule. -/
def headStep (s : State) : Result :=
  match s.inputs with
  | [] => .next s
  | e :: _ => agentStep e s

/-- One step of the whole block: the next event, scheduled or free, and the step of the agent it names. -/
def machineStep (s : State) : Result := headStep s.withEvent

end Sys2Proof.Machine
end

