-- ==== Sys2Proof/Machine/Step.lean ====
section
/-! DEFINITION. One step of the block, and placing an instruction's word where the next step takes it (log 3, log 13). -/

namespace Sys2Proof.Machine

/-- One indivisible step of one agent (spec/20_memory.md R48). -/
def step (s : State) : Host.Outcome State Fault Refusal := machineStep s

/-- `s` with the instruction whose first `nbits` bits are `w` on its port, so that the very next step runs it (log 13). -/
def State.withFetchWord (s : State) (nbits w : Nat) : State := placeTableWord s nbits w

end Sys2Proof.Machine
end

