-- ==== Sys2Proof/Machine/Consumer.lean ====
section
/-!
DEFINITION. The filter registry and the lossy peak filter of the consumer boundary (spec/43_filter_boundary.md). They are host
software outside the block (R100): they have no opcode, touch no register of the block, and no step of the block calls them. The
rules R101 to R117 are normative for a model of the consumer; Sys2Proof/Machine/Joined.lean joins it to the block. The number type of
samples, peak and decay is a parameter (R114), the exact rationals being one value of it.
-/

namespace Sys2Proof.Machine

/-- Text as a list of characters. -/
abbrev Text := List Char

/-- What the document leaves open about the registry: the name of the lossy peak entry (N20) and whether a negative number
is accepted in filter arguments (U12). -/
structure Registry where
  lossyPeakName : Text
  acceptNegative : Bool
deriving DecidableEq, Repr

/-- The identity filter's name, "none" (R104). -/
def identityName : Text := ['n', 'o', 'n', 'e']

/-- The identity filter's identifier: index 0 is reserved for it (R104). -/
def identityId : Nat := 0

/-- The index of `LOSSY_PEAK`, which the document does not give; the spec takes 1 (R102). -/
def lossyPeakId : Nat := 1

/-- The names of the closed, ordered table, by identifier (R104). -/
def filterNames (reg : Registry) : List Text := [identityName, reg.lossyPeakName]

/-- The comparison of names: case-insensitive, exact (R105). -/
def sameName (a b : Text) : Bool := a.map Char.toLower == b.map Char.toLower

/-- `identifier_for_name`: the first entry with that name; an unmatched name is the identity filter's, never an error (R105). -/
def identifierForName (reg : Registry) (name : Text) : Nat :=
  if (filterNames reg).findIdx (sameName name) < (filterNames reg).length then
    (filterNames reg).findIdx (sameName name)
  else identityId

/-- `name_for_identifier`: out-of-range identifiers resolve to "none" (R106). -/
def nameForIdentifier (reg : Registry) (identifier : Nat) : Text :=
  (filterNames reg).getD identifier identityName

/-- A number as it is written: digits, with `scale` of them after the point. -/
structure Decimal where
  negative : Bool
  digits : Nat
  scale : Nat
deriving DecidableEq, Repr

/-- The number a `Decimal` stands for. -/
def Decimal.value (d : Decimal) : ℚ := (if d.negative then -1 else 1) * (d.digits : ℚ) / (10 : ℚ) ^ d.scale

/-- The consumer's number type and its arithmetic, a parameter (R114): the document gives no format and no rounding for it. -/
structure NumberType (R : Type) where
  zero : R
  /-- A count of microseconds. -/
  ofNat : Nat → R
  /-- An argument as it was written. -/
  ofDecimal : Decimal → R
  /-- `val32` of a frequency (R116). -/
  ofPattern : Word → R
  sub : R → R → R
  mul : R → R → R
  div : R → R → R
  eq : R → R → Bool
  lt : R → R → Bool
  le : R → R → Bool

/-- Exact rationals, as the document's examples may be taken (R114). -/
def exactNumbers : NumberType ℚ where
  zero := 0
  ofNat n := (n : ℚ)
  ofDecimal d := d.value
  ofPattern := val32
  sub x y := x - y
  mul x y := x * y
  div x y := x / y
  eq x y := decide (x = y)
  lt x y := decide (x < y)
  le x y := decide (x ≤ y)

/-- The text before the first `c`, and the text after it if there is one. -/
def splitFirst (c : Char) : Text → Text × Option Text
  | [] => ([], none)
  | x :: xs =>
    if x = c then ([], some xs)
    else (x :: (splitFirst c xs).1, (splitFirst c xs).2)

/-- Reads decimal digits onto `acc`; anything else is no number. -/
def readDigits : Nat → Text → Option Nat
  | acc, [] => some acc
  | acc, c :: cs =>
    if 48 ≤ c.toNat ∧ c.toNat ≤ 57 then readDigits (acc * 10 + (c.toNat - 48)) cs else none

/-- An unsigned number: digits, or digits, a point and digits (U12: anything else is refused). -/
def parseUnsigned (text : Text) : Option Decimal :=
  match splitFirst '.' text with
  | (whole, none) =>
    if whole = [] then none
    else (readDigits 0 whole).map fun v => { negative := false, digits := v, scale := 0 }
  | (whole, some frac) =>
    if whole = [] ∨ frac = [] then none
    else (readDigits 0 (whole ++ frac)).map fun v => { negative := false, digits := v, scale := frac.length }

/-- A number, with a leading minus sign where negative numbers are accepted (R111, U12). -/
def parseNumber (acceptNegative : Bool) (text : Text) : Option Decimal :=
  match text with
  | '-' :: rest =>
    if acceptNegative then (parseUnsigned rest).map fun d => { d with negative := true } else none
  | _ => parseUnsigned text

/-- The two-valued mode of the lossy peak filter (R103). -/
inductive PeakMode where
  | holding
  | decaying
deriving DecidableEq, Repr

/-- The lossy peak state (R103): the parsed `decay` (units per second) and `delay` (seconds), the peak, the time of the last update,
the time the peak was set, and the mode. -/
structure LossyPeak (R : Type) where
  decay : Decimal
  delay : Decimal
  peak : R
  tLast : Nat
  tPeak : Nat
  mode : PeakMode
deriving DecidableEq, Repr

/-- `delay_us`: the hold delay converted to microseconds (R103, R111). -/
def LossyPeak.delayUs {R : Type} (num : NumberType R) (st : LossyPeak R) : R :=
  num.mul (num.ofDecimal st.delay) (num.ofNat 1000000)

/-- A filter descriptor, the algorithm with its state: what one channel's slot holds. There is at most one filter in it, and the
identity has no state (R102). -/
inductive FilterSlot (R : Type) where
  | identity
  | lossyPeak (st : LossyPeak R)
deriving DecidableEq, Repr

/-- The algorithm identifier of a descriptor (R102). -/
def FilterSlot.identifier {R : Type} : FilterSlot R → Nat
  | .identity => identityId
  | .lossyPeak _ => lossyPeakId

/-- What `parse_arguments` answers: no state for a filter without a parser, which is absence and not failure; null for malformed
text; or the state (R107). -/
inductive Parsed (R : Type) where
  | noState
  | malformed
  | state (st : LossyPeak R)
deriving DecidableEq, Repr

/-- The lossy peak parser: two comma-separated numbers; the state starts with peak 0, holding, both times "now" (R111). -/
def parseLossyPeak {R : Type} (num : NumberType R) (reg : Registry) (text : Text) (now : Nat) : Parsed R :=
  match splitFirst ',' text with
  | (_, none) => .malformed
  | (a, some b) =>
    match parseNumber reg.acceptNegative a, parseNumber reg.acceptNegative b with
    | some decay, some delay =>
      .state { decay := decay, delay := delay, peak := num.zero, tLast := now, tPeak := now, mode := .holding }
    | _, _ => .malformed

/-- `parse_arguments` (R107); any identifier but the lossy peak's behaves as the identity (U16). -/
def parseArguments {R : Type} (num : NumberType R) (reg : Registry) (identifier : Nat) (text : Text) (now : Nat) :
    Parsed R :=
  if identifier = lossyPeakId then parseLossyPeak num reg text now else .noState

/-- Malformed arguments leave the channel with the identity filter until they are corrected (R107). -/
def slotOfParsed {R : Type} : Parsed R → FilterSlot R
  | .noState => .identity
  | .malformed => .identity
  | .state st => .lossyPeak st

/-- What the caller of a configuration is told (R107): an unknown name is no failure (R105). -/
inductive ConfigReport where
  | accepted
  | parseFailure
deriving DecidableEq, Repr

/-- Malformed text is reported to the caller (R107). -/
def reportOfParsed {R : Type} : Parsed R → ConfigReport
  | .noState => .accepted
  | .malformed => .parseFailure
  | .state _ => .accepted

/-- The `k` lowest decimal digits of `v`, with leading zeros. -/
def paddedDigits : Nat → Nat → Text
  | 0, _ => []
  | k + 1, v => paddedDigits k (v / 10) ++ [Char.ofNat (48 + v % 10)]

/-- How many decimal digits `v` has, at least one; `fuel` bounds the recursion. -/
def digitCount : Nat → Nat → Nat
  | 0, _ => 1
  | fuel + 1, v => if v < 10 then 1 else 1 + digitCount fuel (v / 10)

/-- The number as text that parses back to it. -/
def printDecimal (d : Decimal) : Text :=
  (if d.negative then ['-'] else [])
    ++ paddedDigits (digitCount d.digits (d.digits / 10 ^ d.scale)) (d.digits / 10 ^ d.scale)
    ++ (if d.scale = 0 then [] else '.' :: paddedDigits d.scale (d.digits % 10 ^ d.scale))

/-- `serialize_arguments` (R108): one of the texts U15 admits, the form `"<decay>,<delay>"`; unsupported for the identity (R104). -/
def serializeArguments {R : Type} : FilterSlot R → Option Text
  | .identity => none
  | .lossyPeak st => some (printDecimal st.decay ++ ',' :: printDecimal st.delay)

/-- Step 3 of the apply contract, after a decay-eligible time of `d` microseconds: snap down to the sample, or decay on (R112). -/
def decayBy {R : Type} (num : NumberType R) (st : LossyPeak R) (x d : R) : LossyPeak R :=
  let amount := num.mul (num.div d (num.ofNat 1000000)) (num.ofDecimal st.decay)
  if num.lt (num.sub st.peak amount) x then { st with mode := .decaying, peak := x }
  else { st with mode := .decaying, peak := num.sub st.peak amount }

/-- Steps 2 and 3 for a sample below the peak (R112): held, or decaying with the decay-eligible time of R113. -/
def belowPeak {R : Type} (num : NumberType R) (c : Config) (st : LossyPeak R) (x : R) (t : Nat) : LossyPeak R :=
  let sinceUpdate := num.ofNat (elapsedUs c st.tLast t)
  let sincePeak := num.ofNat (elapsedUs c st.tPeak t)
  match st.mode with
  | .decaying => decayBy num st x sinceUpdate
  | .holding =>
    if num.eq (st.delayUs num) num.zero then decayBy num st x sinceUpdate
    else if num.lt (st.delayUs num) sincePeak then decayBy num st x (num.sub sincePeak (st.delayUs num))
    else st

/-- The apply contract of the lossy peak filter for sample `x` at clock value `t` (R112); the output is the new peak. -/
def applyLossyPeak {R : Type} (num : NumberType R) (c : Config) (st : LossyPeak R) (x : R) (t : Nat) : LossyPeak R :=
  if num.le st.peak x then { st with peak := x, mode := .holding, tPeak := t, tLast := t }
  else { belowPeak num c st x t with tLast := t }

/-- `apply`: the new slot and the filtered sample; the identity returns its input unchanged (R104, R109). -/
def applyFilter {R : Type} (num : NumberType R) (c : Config) (slot : FilterSlot R) (x : R) (t : Nat) : FilterSlot R × R :=
  match slot with
  | .identity => (.identity, x)
  | .lossyPeak st => (.lossyPeak (applyLossyPeak num c st x t), (applyLossyPeak num c st x t).peak)

end Sys2Proof.Machine
end

