-- ==== Sys2Proof/Machine/Joined.lean ====
section
/-!
DEFINITION. The host's consumer joined to the block (spec/43_filter_boundary.md R101, R102, R116): one filter slot per input channel,
the configuration of a channel, its status, and the way of a computed sample from `POLL` through `GET_FREQ` into the slot. It is a
machine around the block: the block's own step is `step`, and none of it is in `State` (R100; log 22).
-/

namespace Sys2Proof.Machine

/-- The block and the consumer beside it; the arrays have one element per input channel. -/
structure Joined (R : Type) where
  block : State
  /-- The filter slots (R102). -/
  slots : List (FilterSlot R)
  /-- The sample of the last computing `POLL` is still to be taken (R116). -/
  due : List Bool
  /-- The last filtered sample, which goes to reporting and to the control logic (R116). -/
  filtered : List (Option R)
deriving DecidableEq, Repr

/-- The consumer before any configuration: no filter and no sample (log 22). -/
def Joined.initial {R : Type} (s : State) : Joined R where
  block := s
  slots := List.replicate s.cfg.n .identity
  due := List.replicate s.cfg.n false
  filtered := List.replicate s.cfg.n none

/-- What the host can do next: let the block step, hand a channel its configuration, or take a channel's sample. -/
inductive HostEvent where
  | block
  | configure (channel : Nat) (name text : Text)
  | sample (channel : Nat)
deriving DecidableEq, Repr

/-- The arguments of channel `i`'s configuration, parsed at the present clock value (R101: `identifier_for_name`, then
`parse_arguments`). -/
def parsedConfig {R : Type} (num : NumberType R) (reg : Registry) (name text : Text) (s : State) : Parsed R :=
  parseArguments num reg (identifierForName reg name) text s.now

/-- Configures a channel: the slot's old descriptor is replaced, and the caller is told (R101, R102, R107). DESIGN CHOICE (log 23): for a
channel that does not exist (`N <= i`), of which the spec says nothing, no slot is written and the report is still that of the
text. -/
def configureChannel {R : Type} (num : NumberType R) (reg : Registry) (j : Joined R) (i : Nat) (name text : Text) :
    Joined R × ConfigReport :=
  ({ j with slots := j.slots.set i (slotOfParsed (parsedConfig num reg name text j.block)) },
    reportOfParsed (parsedConfig num reg name text j.block))

/-- A block step ended a `POLL` whose response is `OK` with result bit 0 set (R95, R116). -/
def pollComputed (before after : State) : Bool :=
  decide (before.phase ≠ .idle) && decide (after.phase = .idle) &&
    match after.response with
    | some r => decide (r.status = .ok) && r.result.getLsbD 0
    | none => false

/-- The next event of the block is the reset input. -/
def resetNext (s : State) : Bool := decide (s.withEvent.inputs.head? = some .reset)

/-- A step of the block: a computing `POLL` gives every channel a sample to take, a reset takes them back; the filters are not
touched (R116). -/
def joinedBlockStep {R : Type} (j : Joined R) : Joined R :=
  match step j.block with
  | .next t =>
    { j with
      block := t
      due :=
        if pollComputed j.block t then List.replicate j.block.cfg.n true
        else if resetNext j.block then List.replicate j.block.cfg.n false
        else j.due }
  | .fault _ => j
  | .refused _ => j

/-- The host's `GET_FREQ i`: the block after it and the frequency it answers, if it answers `OK` (R96). -/
def readFrequency (s : State) (i : Nat) : Option (State × Word) :=
  match exec (.getFreq i) s with
  | .next t =>
    match t.response with
    | some r => if r.status = .ok then some (t, r.result) else none
    | none => none
  | .fault _ => none
  | .refused _ => none

/-- Takes channel `i`'s sample, once per computed sample and between two commands (R69, R116): `GET_FREQ i`, then `apply` to `val32` of
its result at the present clock value, in one step (log 22). DESIGN CHOICE (log 23): a channel that does not exist has no sample. -/
def takeSample {R : Type} (num : NumberType R) (j : Joined R) (i : Nat) : Joined R :=
  if j.block.phase = .idle ∧ readAt false j.due i = true then
    match readFrequency j.block i with
    | none => j
    | some (t, w) =>
      let answer := applyFilter num t.cfg (readAt .identity j.slots i) (num.ofPattern w) t.now
      { block := t
        slots := j.slots.set i answer.1
        due := j.due.set i false
        filtered := j.filtered.set i (some answer.2) }
  else j

/-- One step of the joined machine. -/
def joinedStep {R : Type} (num : NumberType R) (reg : Registry) (j : Joined R) : HostEvent → Joined R
  | .block => joinedBlockStep j
  | .configure i name text => (configureChannel num reg j i name text).1
  | .sample i => takeSample num j i

/-- The status of one channel: its frequency, the name of its filter and the filter's serialized arguments (R101). -/
structure ChannelStatus where
  frequency : Word
  filterName : Text
  arguments : Option Text
deriving DecidableEq, Repr

/-- The status output for channel `i` (R101): the frequency is that of `GET_FREQ`, the name that of the slot's identifier (R106). It
is looked at and changes nothing (log 22). DESIGN CHOICE (log 23): a channel that does not exist has none. -/
def channelStatus {R : Type} (reg : Registry) (j : Joined R) (i : Nat) : Option ChannelStatus :=
  (readFrequency j.block i).map fun p =>
    { frequency := p.2
      filterName := nameForIdentifier reg (readAt (FilterSlot.identity : FilterSlot R) j.slots i).identifier
      arguments := serializeArguments (readAt (FilterSlot.identity : FilterSlot R) j.slots i) }

end Sys2Proof.Machine
end

