-- ==== Sys2Proof/Safety.lean ====
section
/-!
DEFINITION. What the claims speak of: the invariants of the block's registers, the runs of a schedule, an uninterrupted
`POLL`, the end of a run (spec/60_exceptions.md R159), and the bookkeeping of edges and pulses over a run.
-/

namespace Sys2Proof.Machine

/-- Every register array has the length the parameters give it (10_state.md R11 to R25). -/
structure Shaped (s : State) : Prop where
  cnt : s.cnt.length = s.cfg.n
  prev : s.prev.length = s.cfg.n
  freq : s.freq.length = s.cfg.n
  ovf : s.ovf.length = s.cfg.n
  lineMap : s.lineMap.length = s.cfg.l
  irqEn : s.irqEn.length = s.cfg.l
  irqPol : s.irqPol.length = s.cfg.l
  pend : s.pend.length = s.cfg.l
  hz : s.hz.length = s.cfg.m
  hp : s.hp.length = s.cfg.m
  bind : s.bind.length = s.cfg.m
  en : s.en.length = s.cfg.m
  cd : s.cd.length = s.cfg.m
  out : s.out.length = s.cfg.m

/-- What the scratch of a `POLL` in progress holds (R26): at most `N` loaded counters of `CW` bits, all `N` once the clock is sampled,
and only when the input side is set up (R85). -/
def ScratchOk (s : State) : Prop :=
  match s.phase with
  | .idle => True
  | .loading snap => s.inInit = true ∧ snap.length ≤ s.cfg.n ∧ ∀ x ∈ snap, x < 2 ^ s.cfg.cw
  | .sampled snap ts =>
    s.inInit = true ∧ snap.length = s.cfg.n ∧ (∀ x ∈ snap, x < 2 ^ s.cfg.cw) ∧ ts < 2 ^ s.cfg.tw

/-- Every register fits its width, and the scratch is what `PHASE` says (R11, R12, R16, R21, R23, R26). -/
structure Fits (s : State) : Prop where
  cnt : ∀ x ∈ s.cnt, x < 2 ^ s.cfg.cw
  prev : ∀ x ∈ s.prev, x < 2 ^ s.cfg.cw
  tlast : s.tlast < 2 ^ s.cfg.tw
  hp : ∀ x ∈ s.hp, x < 2 ^ s.cfg.hpw
  cd : ∀ x ∈ s.cd, x < 2 ^ s.cfg.hpw
  scratch : ScratchOk s

/-- Before `INIT_IN` the input side is in its reset state; after it the map, the enables and the polarities are those of the
parameters (R14, R17, R18, R144, R163). -/
def InputSideOk (s : State) : Prop :=
  if s.inInit then
    inputSetupOk s.cfg = true ∧
    s.lineMap = builtLineMap s.cfg ∧
    s.irqEn = enabledLines s.cfg (List.replicate s.cfg.l false) ∧
    s.irqPol = policyOfLines s.cfg (List.replicate s.cfg.l .fall)
  else
    s.lineMap = List.replicate s.cfg.l none ∧
    s.irqEn = List.replicate s.cfg.l false ∧
    s.irqPol = List.replicate s.cfg.l .fall ∧
    s.cnt = List.replicate s.cfg.n 0 ∧
    s.prev = List.replicate s.cfg.n 0 ∧
    s.freq = List.replicate s.cfg.n 0 ∧
    s.ovf = List.replicate s.cfg.n false ∧
    s.pend = List.replicate s.cfg.l 0 ∧
    s.tlast = 0

/-- Only an enabled line has requests pending (R75, R146). -/
def OnlyEnabledPend (s : State) : Prop :=
  ∀ l, readAt 0 s.pend l ≠ 0 → readAt false s.irqEn l = true

/-- Before `INIT_OUT` the output side is in its reset state; after it every channel is bound to its own block, enabled (R20,
R121, R130). -/
def OutputSideOk (s : State) : Prop :=
  if s.outInit then
    outputSetupOk s.cfg = true ∧
    s.bind = List.range s.cfg.m ∧
    s.en = List.replicate s.cfg.m true
  else
    s.bind = List.replicate s.cfg.m 0 ∧
    s.en = List.replicate s.cfg.m false ∧
    s.hz = List.replicate s.cfg.m 0 ∧
    s.hp = List.replicate s.cfg.m 0 ∧
    s.cd = List.replicate s.cfg.m 0 ∧
    s.out = List.replicate s.cfg.m false

/-- The invariant of R23: a stopped block has `CD = 0` and a low pin, a running one at least one tick to go. -/
def BlockOk (s : State) (j : Nat) : Prop :=
  (readAt 0 s.hp j = 0 → readAt 0 s.cd j = 0 ∧ readAt false s.out j = false) ∧
  (readAt 0 s.hp j ≠ 0 → 1 ≤ readAt 0 s.cd j)

/-- `HZ[j]` is an accepted pattern and `HP[j]` is its half-period (R19, R21, R123). -/
def CommandedOk (s : State) (j : Nat) : Prop :=
  hzValid (readAt 0 s.hz j) = true ∧ readAt 0 s.hp j = halfPeriod s.cfg (readAt 0 s.hz j)

/-- The registers of a block that has run from reset: every invariant the spec states of them. -/
structure Inv (s : State) : Prop where
  cfg : s.cfg.wf = true
  shaped : Shaped s
  fits : Fits s
  freq : ∀ f ∈ s.freq, FiniteNonneg f
  inputSide : InputSideOk s
  pend : OnlyEnabledPend s
  outputSide : OutputSideOk s
  blocks : ∀ j, j < s.cfg.m → BlockOk s j
  commanded : ∀ j, j < s.cfg.m → CommandedOk s j

/-- `k` steps of the whole block. -/
def runSteps : Nat → State → Result
  | 0, s => .next s
  | k + 1, s =>
    match step s with
    | .next t => runSteps k t
    | .fault r => .fault r
    | .refused r => .refused r

/-- `k` micro-steps of the host's `POLL` with no other agent's step between them (R67). -/
def pollSteps : Nat → State → Result
  | 0, s => .next s
  | k + 1, s =>
    match exec .poll s with
    | .next t => pollSteps k t
    | .fault r => .fault r
    | .refused r => .refused r

/-- `k` ticks of the clock. -/
def ticks : Nat → State → State
  | 0, s => s
  | k + 1, s => ticks k (tick s)

/-- `k` edges of one line, each an `ON_EDGE` (R77). -/
def edges (line : Nat) : Nat → State → Result
  | 0, s => .next s
  | k + 1, s =>
    match exec (.onEdge line) s with
    | .next t => edges line k t
    | .fault r => .fault r
    | .refused r => .refused r

/-- The state at the end of a finite run: nothing of the script is left, no command is in progress and no request pending (R159). -/
def EndState (s : State) : Prop := s.inputs = [] ∧ s.phase = .idle ∧ ∀ x ∈ s.pend, x = 0

/-- The run of the script that stands in `s` ends in `t`, after `k` steps that drew no event from outside the script (R159). -/
def RunEnds (k : Nat) (s t : State) : Prop := runSteps k s = .next t ∧ t.drawn = s.drawn ∧ EndState t

/-- The script line `POLL`: all its micro-steps with no other agent's step between them (R67). -/
def pollLine (c : Config) : List Event :=
  .command 0x0000000003000000 :: List.replicate (c.n + 1) .pollStep

/-- The number of `ON_EDGE` increments of channel `i` that the step at `s` makes: 1 when it serves a pending request of a line
mapped to `i`, else 0 (R76, R77). -/
def edgesCounted (i : Nat) (s : State) : Nat :=
  match s.withEvent.inputs with
  | .serve request :: _ =>
    if 0 < readAt 0 s.pend request.toNat ∧ mappedChannel s request.toNat = some i then 1 else 0
  | _ => 0

/-- The pulses that the step at `s` reports for channel `i`: those of a computing commit whose delta is not negative (R90). -/
def pulsesReported (i : Nat) (s : State) : Nat :=
  match s.phase, s.withEvent.inputs with
  | .sampled snap ts, .command _ :: _ =>
    if elapsedUs s.cfg s.tlast ts < windowUs then 0 else pulses s snap i
  | .sampled snap ts, .pollStep :: _ =>
    if elapsedUs s.cfg s.tlast ts < windowUs then 0 else pulses s snap i
  | _, _ => 0

/-- The step at `s` is a computing commit with a negative delta on channel `i` (R91), or a reset (R160): what the conservation of
edges excludes. -/
def breaksCount (i : Nat) (s : State) : Bool :=
  match s.phase, s.withEvent.inputs with
  | _, .reset :: _ => true
  | .sampled snap ts, .command _ :: _ =>
    decide (windowUs ≤ elapsedUs s.cfg s.tlast ts) && negativeDelta s snap i
  | .sampled snap ts, .pollStep :: _ =>
    decide (windowUs ≤ elapsedUs s.cfg s.tlast ts) && negativeDelta s snap i
  | _, _ => false

/-- A run with its bookkeeping for channel `i`: `tally i k s = some (t, edges, pulses)` when `k` steps from `s` lead to `t`
with that many increments and reported pulses and nothing that breaks the count. -/
def tally (i : Nat) : Nat → State → Option (State × Nat × Nat)
  | 0, s => some (s, 0, 0)
  | k + 1, s =>
    if breaksCount i s then none
    else
      match step s with
      | .next t =>
        match tally i k t with
        | some (u, e, p) => some (u, edgesCounted i s + e, pulsesReported i s + p)
        | none => none
      | .fault _ => none
      | .refused _ => none

/-- The outputs of the lossy peak filter for samples `x` at clock values `t`, in order (R112). -/
def feedPeak {R : Type} (num : NumberType R) (c : Config) : LossyPeak R → List (R × Nat) → List R
  | _, [] => []
  | st, (x, t) :: rest =>
    (applyLossyPeak num c st x t).peak :: feedPeak num c (applyLossyPeak num c st x t) rest

/-- The times a filter keeps are clock values (R103, R114). -/
def SlotOk {R : Type} (c : Config) : FilterSlot R → Prop
  | .identity => True
  | .lossyPeak st => st.tLast < 2 ^ c.tw ∧ st.tPeak < 2 ^ c.tw

/-- The joined machine: the block's invariant, one slot, one sample and one output per input channel (R102, R116), and the filters'
times. -/
structure JoinedOk {R : Type} (j : Joined R) : Prop where
  block : Inv j.block
  slots : j.slots.length = j.block.cfg.n
  due : j.due.length = j.block.cfg.n
  filtered : j.filtered.length = j.block.cfg.n
  times : ∀ slot ∈ j.slots, SlotOk j.block.cfg slot

end Sys2Proof.Machine
end

