-- ==== Sys2Proof/Certificates/Slice0/Obligations.lean ====
section
/-!
DEFINITION. The statements for the provers, from the numbered rules of spec/. `Shaped`, `Fits` and `Inv` are invariants of the block,
stated as such in `RegisterInvariantKept` and `RegisterInvariantAtReset`. Frames are written as `t = { s with ... }`: every
register that is not named keeps its value.
-/

open Sys2Proof Sys2Proof.Machine

/-! ## Encoding -/

/-- R56, R57, R60: decoding the word of a well-formed operation gives the operation back. -/
def Obligations.DecodeEncodeRoundTrip : Prop :=
  ∀ i : Instr, i.wellFormed = true → decode (encode i) = .instr i

/-- R56, R57, R59, R62: a word that decodes is the encoding of what it decodes to; no bit of it is dropped. -/
def Obligations.DecodedWordsAreEncodings : Prop :=
  ∀ (p : PortWord) (i : Instr), decode p = .instr i → i.wellFormed = true ∧ encode i = p

/-- R61: a command is illegal exactly when it selects no row, that is in the cases (a), (b), (c); it raises `ERR_ILLEGAL` and
changes no state; the all-zero word is illegal. -/
def Obligations.IllegalWordsSelectNoRow : Prop :=
  (∀ w : Command,
    ((∃ why, decodeCommand w = .illegal why) ↔ ∀ r ∈ opcodeRows, r.selects w = false) ∧
    ((∃ why, decodeCommand w = .illegal why) ↔
      (w.opc = 0 ∨ 7 ≤ w.opc) ∨ w.rsv ≠ 0 ∨
      ((w.opc = 1 ∨ w.opc = 2 ∨ w.opc = 3) ∧ (w.idx ≠ 0 ∨ w.data ≠ 0)) ∨
      ((w.opc = 5 ∨ w.opc = 6) ∧ w.data ≠ 0))) ∧
  (∃ why, decodeCommand 0 = .illegal why) ∧
  ∀ (s : State) (w : Command) (rest : List Event), s.inputs = .command w :: rest → s.phase = .idle →
    (∃ why, decodeCommand w = .illegal why) →
    step s = .next { s with inputs := rest, response := some { status := .errIllegal, result := 0 } }

/-- R60: the rows are disjoint, and a command that decodes selects the row of its operation. -/
def Obligations.CommandSelectsItsOwnRow : Prop :=
  opcodeRows.Pairwise (fun r r' => ∀ w, ¬ (r.selects w = true ∧ r'.selects w = true)) ∧
  ∀ (w : Command) (i : Instr), decodeCommand w = .instr i →
    ∃ k r, i.rowIndex = some k ∧ opcodeRows[k]? = some r ∧ r.selects w = true

/-- R66: the example words of the syntax table decode as it says. -/
def Obligations.SyntaxTableWordsDecode : Prop :=
  decode (.edge 0x03) = .instr (.onEdge 3) ∧
  decode (.command 0x0000000001000000) = .instr .initIn ∧
  decode (.command 0x0000000002000000) = .instr .initOut ∧
  decode (.command 0x0000000003000000) = .instr .poll ∧
  decode (.command 0x42C8000004010000) = .instr (.setFreq 1 0x42C80000) ∧
  decode (.command 0x0000000005020000) = .instr (.getFreq 2) ∧
  decode (.command 0x0000000006000000) = .instr (.getFlags 0)

/-! ## Steps of the agents -/

/-- R69, R76, R78, R86: what a step does with an instruction on its port. A command between two commands is decoded and run; while a
`POLL` is in progress a command waits and the host takes the next micro-step; an edge request is run with its `PEND` taken, or
with none for an unmapped line. The order of events is the schedule of log 3, the waiting is log 5. -/
def Obligations.StepRunsTheDecodedInstruction : Prop :=
  ∀ (s : State) (rest : List Event),
    (∀ w i, s.inputs = .command w :: rest → s.phase = .idle → decodeCommand w = .instr i →
      step s = exec i { s with inputs := rest }) ∧
    (∀ w, s.inputs = .command w :: rest → s.phase ≠ .idle → step s = exec .poll s) ∧
    (s.inputs = .pollStep :: rest → s.phase ≠ .idle → step s = exec .poll { s with inputs := rest }) ∧
    (∀ b, s.inputs = .serve b :: rest → 0 < readAt 0 s.pend b.toNat →
      step s = exec (.onEdge b.toNat) { s with inputs := rest, pend := s.pend.modify b.toNat (· - 1) }) ∧
    (∀ b, s.inputs = .spurious b :: rest → mappedChannel s b.toNat = none →
      step s = exec (.onEdge b.toNat) { s with inputs := rest })

/-- Log 13: the instruction that `withFetchWord` brings to its port is what the very next step runs, and nothing else of the state
is changed by bringing it there. -/
def Obligations.PlacedWordIsRunNext : Prop :=
  ∀ (s : State) (nbits w : Nat) (i : Instr), Shaped s → s.phase = .idle →
    decodeTableWord nbits w = some i → step (s.withFetchWord nbits w) = exec i s

/-- R140, R159: no step stops; the block never halts. -/
def Obligations.EveryStepAnswersANextState : Prop :=
  ∀ s : State, ∃ t, step s = .next t

/-- R75: a transition raises one request exactly when its line is enabled and it is the configured direction. -/
def Obligations.TransitionRaisesConfiguredRequest : Prop :=
  ∀ (s : State) (rest : List Event) (l : Nat) (d : Edge), Shaped s → l < s.cfg.l →
    s.inputs = .transition l d :: rest →
    ∃ t, step s = .next t ∧
      (readAt false s.irqEn l = true ∧ d = readAt .fall s.irqPol l →
        readAt 0 t.pend l = readAt 0 s.pend l + 1) ∧
      (¬ (readAt false s.irqEn l = true ∧ d = readAt .fall s.irqPol l) → t.pend = s.pend) ∧
      (∀ k, k ≠ l → readAt 0 t.pend k = readAt 0 s.pend k) ∧
      t = { s with inputs := rest, pend := t.pend }

/-- R76: serving a pending request takes one from `PEND` and runs `ON_EDGE` in the same step. -/
def Obligations.ServeTakesOneRequest : Prop :=
  ∀ (s : State) (rest : List Event) (b : Byte), Shaped s → s.inputs = .serve b :: rest →
    0 < readAt 0 s.pend b.toNat →
    ∃ t, step s = .next t ∧
      readAt 0 t.pend b.toNat + 1 = readAt 0 s.pend b.toNat ∧
      (∀ k, k ≠ b.toNat → readAt 0 t.pend k = readAt 0 s.pend k) ∧
      (∀ c, mappedChannel s b.toNat = some c → c < s.cfg.n →
        readAt 0 t.cnt c = (readAt 0 s.cnt c + 1) % 2 ^ s.cfg.cw) ∧
      (∀ c, mappedChannel s b.toNat ≠ some c → readAt 0 t.cnt c = readAt 0 s.cnt c) ∧
      t = { s with inputs := rest, pend := t.pend, cnt := t.cnt }

/-- R31: who writes what. The interrupt agent writes `CNT` and `PEND` only; the edge detector `PEND` only; the tick `T`, `CD` and `OUT`
only; the host neither `CNT`, `PEND` nor `T`. No step writes the parameters (R33). -/
def Obligations.AgentsWriteOnlyTheirOwn : Prop :=
  ∀ (s t : State) (e : Event) (rest : List Event), s.inputs = e :: rest → step s = .next t →
    t.cfg = s.cfg ∧
    (∀ b, e = .serve b ∨ e = .spurious b → t = { s with inputs := rest, pend := t.pend, cnt := t.cnt }) ∧
    (∀ l d, e = .transition l d → t = { s with inputs := rest, pend := t.pend }) ∧
    (e = .tick → t = { s with inputs := rest, t := t.t, cd := t.cd, out := t.out }) ∧
    (∀ w, e = .command w ∨ e = .pollStep → t.cnt = s.cnt ∧ t.pend = s.pend ∧ t.t = s.t)

/-- R14, R18, R20, R52: what setup writes is immutable afterwards: only the reset input undoes it. -/
def Obligations.SetupIsImmutable : Prop :=
  ∀ (s t : State) (e : Event) (rest : List Event), s.inputs = e :: rest → e ≠ .reset → step s = .next t →
    (s.inInit = true →
      t.inInit = true ∧ t.lineMap = s.lineMap ∧ t.irqEn = s.irqEn ∧ t.irqPol = s.irqPol) ∧
    (s.outInit = true → t.outInit = true ∧ t.bind = s.bind ∧ t.en = s.en)

/-- R49 (c), R86: increments commute with each other, with the operations that touch only poll-owned or output registers,
and with the commit of a `POLL`. -/
def Obligations.IncrementsCommute : Prop :=
  (∀ (a b : Nat) (s t u : State), exec (.onEdge a) s = .next t → exec (.onEdge b) t = .next u →
    ∃ t', exec (.onEdge b) s = .next t' ∧ exec (.onEdge a) t' = .next u) ∧
  (∀ (i : Instr) (line : Nat) (s t u : State),
    (i = .initOut ∨ (∃ j hz, i = .setFreq j hz) ∨ (∃ j, i = .getFreq j) ∨ (∃ j, i = .getFlags j) ∨
      (i = .poll ∧ ∃ snap ts, s.phase = .sampled snap ts)) →
    exec i s = .next t → exec (.onEdge line) t = .next u →
    ∃ t', exec (.onEdge line) s = .next t' ∧ exec i t' = .next u)

/-! ## Edge counter -/

/-- R77, R78: `ON_EDGE` of a mapped line adds exactly one to its channel, modulo `2^CW`, and writes nothing else; of any other line it
changes nothing. -/
def Obligations.OnEdgeIncrementsMappedChannel : Prop :=
  ∀ (s : State) (line : Nat), Shaped s →
    (∀ c, line < s.cfg.l → readAt none s.lineMap line = some c → c < s.cfg.n →
      ∃ t, exec (.onEdge line) s = .next t ∧
        readAt 0 t.cnt c = (readAt 0 s.cnt c + 1) % 2 ^ s.cfg.cw ∧
        (∀ k, k ≠ c → readAt 0 t.cnt k = readAt 0 s.cnt k) ∧
        t = { s with cnt := t.cnt }) ∧
    (s.cfg.l ≤ line ∨ readAt none s.lineMap line = none → exec (.onEdge line) s = .next s)

/-- R45, R77 (d): `k` edges of a channel's line add `k`, modulo `2^CW`: none is lost and none is counted twice. -/
def Obligations.EdgesAddUp : Prop :=
  ∀ (k : Nat) (s : State) (line c : Nat), Inv s → mappedChannel s line = some c → c < s.cfg.n →
    ∃ t, edges line k s = .next t ∧
      readAt 0 t.cnt c = (readAt 0 s.cnt c + k) % 2 ^ s.cfg.cw ∧
      (∀ j, j ≠ c → readAt 0 t.cnt j = readAt 0 s.cnt j) ∧
      t = { s with cnt := t.cnt }

/-- R80 and R81: a successful `INIT_IN` builds the map, enables exactly the configured lines with their polarity, starts the window and
sets `IN_INIT`; it writes nothing else. The hypothesis on `inputSetupOk` is `InputConfigValid` with sound hardware (log 10). -/
def Obligations.InitInBuildsTheMap : Prop :=
  ∀ s : State, Shaped s → s.inInit = false → inputSetupOk s.cfg = true →
    ∃ t, exec .initIn s = .next t ∧
      (∀ i, i < s.cfg.n →
        readAt none t.lineMap (s.cfg.line i) = some i ∧
        readAt false t.irqEn (s.cfg.line i) = true ∧
        readAt .fall t.irqPol (s.cfg.line i) = s.cfg.polarity i) ∧
      (∀ l, (∀ i, i < s.cfg.n → s.cfg.line i ≠ l) →
        readAt none t.lineMap l = none ∧
        readAt false t.irqEn l = readAt false s.irqEn l ∧
        readAt .fall t.irqPol l = readAt .fall s.irqPol l) ∧
      t.tlast = s.t % 2 ^ s.cfg.tw ∧ t.inInit = true ∧
      t.response = some { status := .ok, result := 0 } ∧
      t = { s with lineMap := t.lineMap, irqEn := t.irqEn, irqPol := t.irqPol, tlast := t.tlast,
                   inInit := t.inInit, response := t.response }

/-- R82, R172: `InputConfigValid` is range and injectivity of `LINE_OF`; where it fails, and where the input side is already set up,
`INIT_IN` is refused and changes nothing. -/
def Obligations.InitInRefusals : Prop :=
  (∀ c : Config, inputConfigValid c = true ↔
    (∀ i, i < c.n → c.line i < c.l) ∧
    (∀ i k, i < c.n → k < c.n → i ≠ k → c.line i ≠ c.line k)) ∧
  ∀ s : State,
    (s.inInit = true →
      exec .initIn s = .next { s with response := some { status := .errAlreadyInit, result := 0 } }) ∧
    (s.inInit = false → inputConfigValid s.cfg = false →
      exec .initIn s = .next { s with response := some { status := .errConfig, result := 0 } })

/-! ## Frequency estimator -/

/-- R85, R86, R87: the micro-steps of a `POLL`: the check, the loads in ascending order, the clock sample. That the accepting step is
the first load is log 6; that the response is absent from then on is log 7. -/
def Obligations.PollTakesItsMicroSteps : Prop :=
  ∀ s : State,
    (s.phase = .idle → s.inInit = false →
      exec .poll s = .next { s with response := some { status := .errNotInit, result := 0 } }) ∧
    (s.phase = .idle → s.inInit = true → 1 ≤ s.cfg.n →
      exec .poll s = .next { s with phase := .loading [readAt 0 s.cnt 0], response := none }) ∧
    (∀ snap, s.phase = .loading snap → snap.length < s.cfg.n →
      exec .poll s = .next { s with phase := .loading (snap ++ [readAt 0 s.cnt snap.length]) }) ∧
    (∀ snap, s.phase = .loading snap → s.cfg.n ≤ snap.length →
      exec .poll s = .next { s with phase := .sampled snap (s.t % 2 ^ s.cfg.tw) })

/-- R89: a `POLL` whose window is shorter than one second mutates nothing and answers `OK, 0`. -/
def Obligations.ThrottledPollChangesNothing : Prop :=
  ∀ (s : State) (snap : List Nat) (ts : Nat), s.phase = .sampled snap ts →
    elapsedUs s.cfg s.tlast ts < 1000000 →
    exec .poll s = .next { s with phase := .idle, response := some { status := .ok, result := 0 } }

/-- R90, R91, R94, R95: a computing commit stores the frequency of every channel, 0 and the flag where the counter went
backwards, moves both baselines to the snapshot and the sample, and says so in its result. -/
def Obligations.CommitComputesEveryChannel : Prop :=
  ∀ (s : State) (snap : List Nat) (ts : Nat), s.phase = .sampled snap ts →
    1000000 ≤ elapsedUs s.cfg s.tlast ts →
    ∃ t, exec .poll s = .next t ∧
      (∀ i, i < s.cfg.n →
        (readAt 0 snap i < readAt 0 s.prev i → readAt 0 t.freq i = 0 ∧ readAt false t.ovf i = true) ∧
        (readAt 0 s.prev i ≤ readAt 0 snap i →
          readAt 0 t.freq i = freqRound s.cfg.rounding
            ((readAt 0 snap i - readAt 0 s.prev i) * 1000000) (elapsedUs s.cfg s.tlast ts) ∧
          readAt false t.ovf i = false) ∧
        readAt 0 t.prev i = readAt 0 snap i) ∧
      t.tlast = ts ∧ t.phase = .idle ∧
      ((∃ i, i < s.cfg.n ∧ readAt 0 snap i < readAt 0 s.prev i) →
        t.response = some { status := .ok, result := 3 }) ∧
      ((∀ i, i < s.cfg.n → readAt 0 s.prev i ≤ readAt 0 snap i) →
        t.response = some { status := .ok, result := 1 }) ∧
      t = { s with freq := t.freq, ovf := t.ovf, prev := t.prev, tlast := t.tlast, phase := t.phase,
                   response := t.response }

/-- R67, R86: an uninterrupted `POLL` completes in its N + 2 steps: it is throttled and changes nothing, or it computes from the
counters as they are and the clock as it is. -/
def Obligations.UninterruptedPollCompletes : Prop :=
  ∀ s : State, s.cfg.wf = true → Shaped s → s.phase = .idle → s.inInit = true →
    ∃ t, pollSteps (s.cfg.n + 2) s = .next t ∧
      (elapsedUs s.cfg s.tlast s.now < 1000000 →
        t = { s with response := some { status := .ok, result := 0 } }) ∧
      (1000000 ≤ elapsedUs s.cfg s.tlast s.now →
        t.prev = s.cnt ∧ t.tlast = s.now ∧
        (∀ i, i < s.cfg.n →
          (readAt 0 s.cnt i < readAt 0 s.prev i → readAt 0 t.freq i = 0 ∧ readAt false t.ovf i = true) ∧
          (readAt 0 s.prev i ≤ readAt 0 s.cnt i →
            readAt 0 t.freq i = freqRound s.cfg.rounding
              ((readAt 0 s.cnt i - readAt 0 s.prev i) * 1000000) (elapsedUs s.cfg s.tlast s.now) ∧
            readAt false t.ovf i = false)) ∧
        (t.response = some { status := .ok, result := 1 } ∨
          t.response = some { status := .ok, result := 3 }) ∧
        t = { s with freq := t.freq, ovf := t.ovf, prev := t.prev, tlast := t.tlast,
                     response := t.response })

/-- R89, R99 (a): a second `POLL` less than a second of clock time after a computing one is a no-op. -/
def Obligations.SecondPollInSuccessionIsNoOp : Prop :=
  ∀ (s t : State) (d : Nat), s.cfg.wf = true → Shaped s → s.phase = .idle → s.inInit = true →
    pollSteps (s.cfg.n + 2) s = .next t → t.tlast = s.now → d < 1000000 →
    pollSteps (s.cfg.n + 2) (ticks d t) =
      .next { ticks d t with response := some { status := .ok, result := 0 } }

/-- R83, R99 (d): exactly `k` edges of a channel between two uninterrupted computing `POLL`s, with no wrap of its counter, are the
pulses of the second; the window is the true time between them. -/
def Obligations.EdgesBetweenPollsAreItsPulses : Prop :=
  ∀ (s t u : State) (line c k d : Nat), Inv s → s.phase = .idle → s.inInit = true →
    1000000 ≤ elapsedUs s.cfg s.tlast s.now → pollSteps (s.cfg.n + 2) s = .next t →
    mappedChannel s line = some c → c < s.cfg.n → readAt 0 s.cnt c + k < 2 ^ s.cfg.cw →
    edges line k t = .next u → 1000000 ≤ d → d < 2 ^ s.cfg.tw →
    ∃ v, pollSteps (s.cfg.n + 2) (ticks d u) = .next v ∧
      readAt 0 v.freq c = freqRound s.cfg.rounding (k * 1000000) d ∧
      readAt false v.ovf c = false ∧
      readAt 0 v.prev c = readAt 0 s.cnt c + k

/-- R84: over any run in which channel `i` never has a negative delta and no reset falls, the pulses reported plus what the counter is
ahead of its baseline at the end are the edges counted, modulo `2^CW`. The run starts with the counter at its baseline, as it is
at reset. -/
def Obligations.EdgesAreConserved : Prop :=
  ∀ (k i e p : Nat) (s t : State), Inv s → i < s.cfg.n → readAt 0 s.cnt i = readAt 0 s.prev i →
    tally i k s = some (t, e, p) →
    (p + (readAt 0 t.cnt i + 2 ^ s.cfg.cw - readAt 0 t.prev i) % 2 ^ s.cfg.cw) % 2 ^ s.cfg.cw =
      e % 2 ^ s.cfg.cw

/-- R88: the clock difference is the true elapsed time modulo `2^TW`, and exact below `2^TW`, whether or not `NOW` wrapped. -/
def Obligations.ElapsedIsTrueTimeBelowTheAlias : Prop :=
  ∀ (c : Config) (tRef tNow : Nat), tRef ≤ tNow →
    elapsedUs c (tRef % 2 ^ c.tw) (tNow % 2 ^ c.tw) = (tNow - tRef) % 2 ^ c.tw ∧
    (tNow - tRef < 2 ^ c.tw →
      elapsedUs c (tRef % 2 ^ c.tw) (tNow % 2 ^ c.tw) = tNow - tRef)

/-- R92: whichever rounding the device has, the stored frequency is a finite non-negative pattern, a function of the quotient
alone, `0x0000_0000` for 0, exact on representable quotients, and monotone. The device's own rounding is log 8. -/
def Obligations.FreqRoundIsAdmissible : Prop :=
  ∀ (mode : Rounding) (num den : Nat), 0 < den →
    FiniteNonneg (freqRound mode num den) ∧
    freqRound mode 0 den = 0 ∧
    (∀ b : Word, FiniteNonneg b → val32 b = (num : ℚ) / den → freqRound mode num den = b) ∧
    (∀ num' den' : Nat, 0 < den' → (num : ℚ) / den ≤ (num' : ℚ) / den' →
      val32 (freqRound mode num den) ≤ val32 (freqRound mode num' den')) ∧
    (∀ num' den' : Nat, 0 < den' → (num : ℚ) / den = (num' : ℚ) / den' →
      freqRound mode num den = freqRound mode num' den')

/-- R92: the default rounds to nearest, ties to even, over every quotient up to the largest finite pattern, subnormals included. -/
def Obligations.DefaultFreqRoundIsNearestEven : Prop :=
  ∀ (num den : Nat), 0 < den → (num : ℚ) / den ≤ val32 0x7F7FFFFF →
    ∀ b : Word, FiniteNonneg b →
      |val32 (freqRound .nearestEven num den) - (num : ℚ) / den| ≤ |val32 b - (num : ℚ) / den| ∧
      (b ≠ freqRound .nearestEven num den →
        |val32 (freqRound .nearestEven num den) - (num : ℚ) / den| = |val32 b - (num : ℚ) / den| →
        (freqRound .nearestEven num den).toNat % 2 = 0)

/-- R96: `GET_FREQ` answers the stored frequency of an existing channel, at any time, and `ERR_INDEX` otherwise; it writes nothing. -/
def Obligations.GetFreqReadsTheFrequency : Prop :=
  ∀ (s : State) (i : Nat),
    (i < s.cfg.n →
      exec (.getFreq i) s = .next { s with response := some { status := .ok, result := readAt 0 s.freq i } }) ∧
    (s.cfg.n ≤ i →
      exec (.getFreq i) s = .next { s with response := some { status := .errIndex, result := 0 } })

/-- R97: `GET_FLAGS` answers the flag of an existing channel in bit 0, at any time, and does not clear it; `ERR_INDEX` otherwise. -/
def Obligations.GetFlagsReadsTheFlag : Prop :=
  ∀ (s : State) (i : Nat),
    (i < s.cfg.n →
      ∃ r : Word, exec (.getFlags i) s = .next { s with response := some { status := .ok, result := r } } ∧
        r.getLsbD 0 = readAt false s.ovf i ∧ ∀ k, 1 ≤ k → r.getLsbD k = false) ∧
    (s.cfg.n ≤ i →
      exec (.getFlags i) s = .next { s with response := some { status := .errIndex, result := 0 } })

/-! ## Pulse synthesizer -/

/-- R121, R122: a successful `INIT_OUT` binds every channel to its own enabled block at 0 Hz and touches nothing of the input side; a
second call and too few blocks are refused. Sound hardware is log 10. -/
def Obligations.InitOutBindsEveryChannel : Prop :=
  ∀ s : State,
    (s.outInit = false → s.cfg.m ≤ s.cfg.b → s.cfg.outputSound = true →
      ∃ t, exec .initOut s = .next t ∧
        (∀ j, j < s.cfg.m →
          readAt 0 t.bind j = j ∧ readAt false t.en j = true ∧ readAt 0 t.hz j = 0 ∧
          readAt 0 t.hp j = 0 ∧ readAt 0 t.cd j = 0 ∧ readAt false t.out j = false) ∧
        t.outInit = true ∧ t.response = some { status := .ok, result := 0 } ∧
        t = { s with bind := t.bind, en := t.en, hz := t.hz, hp := t.hp, cd := t.cd, out := t.out,
                     outInit := t.outInit, response := t.response }) ∧
    (s.outInit = true →
      exec .initOut s = .next { s with response := some { status := .errAlreadyInit, result := 0 } }) ∧
    (s.outInit = false → s.cfg.b < s.cfg.m →
      exec .initOut s = .next { s with response := some { status := .errConfig, result := 0 } })

/-- R64, R123, R145: `SET_FREQ` checks its index, then its data, then the state; a failed check writes nothing. -/
def Obligations.SetFreqChecksInOrder : Prop :=
  ∀ (s : State) (j : Nat) (hz : Word),
    (s.cfg.m ≤ j →
      exec (.setFreq j hz) s = .next { s with response := some { status := .errIndex, result := 0 } }) ∧
    (j < s.cfg.m → hzValid hz = false →
      exec (.setFreq j hz) s = .next { s with response := some { status := .errRange, result := 0 } }) ∧
    (j < s.cfg.m → hzValid hz = true → s.outInit = false →
      exec (.setFreq j hz) s = .next { s with response := some { status := .errNotInit, result := 0 } })

/-- R123, R125: an accepted `SET_FREQ` records the command, programs the half-period, answers it, and stops, starts or
reprograms the block without touching its phase; no other channel and no other register is written. -/
def Obligations.SetFreqProgramsTheBlock : Prop :=
  ∀ (s : State) (j : Nat) (hz : Word), Shaped s → j < s.cfg.m → hzValid hz = true → s.outInit = true →
    ∃ t, exec (.setFreq j hz) s = .next t ∧
      readAt 0 t.hz j = hz ∧
      readAt 0 t.hp j = halfPeriod s.cfg hz ∧
      t.response = some { status := .ok, result := BitVec.ofNat 32 (halfPeriod s.cfg hz) } ∧
      (halfPeriod s.cfg hz = 0 → readAt 0 t.cd j = 0 ∧ readAt false t.out j = false) ∧
      (halfPeriod s.cfg hz ≠ 0 → readAt 0 s.hp j = 0 →
        readAt 0 t.cd j = halfPeriod s.cfg hz ∧ readAt false t.out j = readAt false s.out j) ∧
      (halfPeriod s.cfg hz ≠ 0 → readAt 0 s.hp j ≠ 0 →
        readAt 0 t.cd j = readAt 0 s.cd j ∧ readAt false t.out j = readAt false s.out j) ∧
      (∀ k, k ≠ j →
        readAt 0 t.hz k = readAt 0 s.hz k ∧ readAt 0 t.hp k = readAt 0 s.hp k ∧
        readAt 0 t.cd k = readAt 0 s.cd k ∧ readAt false t.out k = readAt false s.out k) ∧
      t = { s with hz := t.hz, hp := t.hp, cd := t.cd, out := t.out, response := t.response }

/-- R126 (a): commanding the frequency a channel already has changes nothing but the response, so repeated calls
accumulate no drift. -/
def Obligations.RepeatedSetFreqChangesNothing : Prop :=
  ∀ (s : State) (j : Nat), Inv s → j < s.cfg.m → s.outInit = true →
    exec (.setFreq j (readAt 0 s.hz j)) s =
      .next { s with response := some { status := .ok, result := BitVec.ofNat 32 (readAt 0 s.hp j) } }

/-- R124: `HzValid` is: not a NaN, not an infinity, and `val32 >= 0`; so exactly the patterns with sign bit 0 and exponent
field other than `0xFF`, and `-0.0`. Of an existing channel, `SET_FREQ` refuses an invalid pattern with `ERR_RANGE` and no state
change, and no valid pattern, however large or small, once the output side is set up. -/
def Obligations.HzValidIsFiniteAndNotNegative : Prop :=
  ∀ hz : Word,
    (hzValid hz = true ↔ expField hz ≠ 255 ∧ 0 ≤ val32 hz) ∧
    (hzValid hz = true ↔ (hz.getLsbD 31 = false ∧ expField hz ≠ 255) ∨ hz = 0x80000000) ∧
    ∀ (s : State) (j : Nat), j < s.cfg.m →
      (hzValid hz = false →
        exec (.setFreq j hz) s = .next { s with response := some { status := .errRange, result := 0 } }) ∧
      (hzValid hz = true → s.outInit = true →
        ∃ t r, exec (.setFreq j hz) s = .next t ∧ t.response = some { status := .ok, result := r })

/-- R127: the half-period is the nearest number of ticks to `1_000_000 / (2 v)`, ties upward, clamped to `1 .. 2^HPW - 1`, and 0 only
for `v = 0`. -/
def Obligations.HalfPeriodIsNearestTickCount : Prop :=
  ∀ (c : Config) (hz : Word), c.wf = true → hzValid hz = true →
    (val32 hz = 0 → halfPeriod c hz = 0) ∧
    (val32 hz ≠ 0 →
      (halfPeriod c hz : ℤ) =
        max 1 (min ⌊(1000000 : ℚ) / (2 * val32 hz) + 1 / 2⌋ ((2 : ℤ) ^ c.hpw - 1)))

/-- R131: away from the clamps the half-period is within half a tick of the exact one, a relative error of at most
`1 / (2 HP)`. -/
def Obligations.EmittedHalfPeriodIsAccurate : Prop :=
  ∀ (c : Config) (hz : Word), c.wf = true → hzValid hz = true → val32 hz ≠ 0 →
    (1 : ℚ) / 2 ≤ (1000000 : ℚ) / (2 * val32 hz) →
    halfPeriod c hz < 2 ^ c.hpw - 1 →
    |(halfPeriod c hz : ℚ) - (1000000 : ℚ) / (2 * val32 hz)| ≤ 1 / 2 ∧
    |(halfPeriod c hz : ℚ) - (1000000 : ℚ) / (2 * val32 hz)| / halfPeriod c hz ≤ 1 / (2 * halfPeriod c hz)

/-- R128: the tick advances the clock and, in the same step, every timing block. -/
def Obligations.TickStepsEveryBlock : Prop :=
  ∀ (s : State) (rest : List Event), s.inputs = .tick :: rest →
    ∃ t, step s = .next t ∧ t.t = s.t + 1 ∧
      (∀ j, j < s.cfg.m →
        (readAt false s.en j = true ∧ readAt 0 s.hp j ≠ 0 → readAt 0 s.cd j ≤ 1 →
          readAt false t.out j = !readAt false s.out j ∧ readAt 0 t.cd j = readAt 0 s.hp j) ∧
        (readAt false s.en j = true ∧ readAt 0 s.hp j ≠ 0 → 1 < readAt 0 s.cd j →
          readAt false t.out j = readAt false s.out j ∧ readAt 0 t.cd j + 1 = readAt 0 s.cd j) ∧
        (readAt false s.en j = false ∨ readAt 0 s.hp j = 0 →
          readAt false t.out j = readAt false s.out j ∧ readAt 0 t.cd j = readAt 0 s.cd j)) ∧
      t = { s with inputs := rest, t := t.t, cd := t.cd, out := t.out }

/-- R126 (b), (c), R128: a running block runs its half-period in progress out at its old length and then loads the half-period
programmed now; the pin does not move before. -/
def Obligations.NewHalfPeriodTakenUpAtNextToggle : Prop :=
  ∀ (s : State) (j : Nat), j < s.cfg.m → readAt false s.en j = true → readAt 0 s.hp j ≠ 0 →
    1 ≤ readAt 0 s.cd j →
    (∀ k, k < readAt 0 s.cd j → readAt false (ticks k s).out j = readAt false s.out j) ∧
    readAt false (ticks (readAt 0 s.cd j) s).out j = !readAt false s.out j ∧
    readAt 0 (ticks (readAt 0 s.cd j) s).cd j = readAt 0 s.hp j

/-- R129: a block started at `T = t0` with half-period `h` and not reprogrammed toggles at `t0 + k h` for `k = 1, 2, 3, ...`, rising
at odd `k` and falling at even `k`, for ever. -/
def Obligations.StartedBlockEmitsASquareWave : Prop :=
  ∀ (s : State) (j : Nat) (hz : Word), Inv s → j < s.cfg.m → s.outInit = true → hzValid hz = true →
    halfPeriod s.cfg hz ≠ 0 → readAt 0 s.hp j = 0 →
    ∃ u, exec (.setFreq j hz) s = .next u ∧
      ∀ k, (ticks k u).t = s.t + k ∧
        readAt false (ticks k u).out j = decide (k / halfPeriod s.cfg hz % 2 = 1)

/-- R130: while `HP[j] = 0` the pin is constantly 0 and a tick changes nothing of the block; before `INIT_OUT` the block is
disabled, stopped and low; and no operation clears `EN[j]`: a stopped channel is an enabled block. -/
def Obligations.StoppedOutputStaysLow : Prop :=
  ∀ (s : State) (j : Nat), Inv s → j < s.cfg.m →
    (readAt 0 s.hp j = 0 → ∀ k,
      readAt false (ticks k s).out j = false ∧ readAt 0 (ticks k s).cd j = readAt 0 s.cd j ∧
      readAt 0 (ticks k s).hp j = 0) ∧
    (s.outInit = false → readAt false s.en j = false ∧ readAt 0 s.hp j = 0 ∧ readAt false s.out j = false) ∧
    (readAt false s.en j = true → ∀ (i : Instr) (t : State), exec i s = .next t → readAt false t.en j = true)

/-! ## Failures -/

/-- R141: a failed command is invisible in the state: its response has `RESULT = 0`, no register is written and `PHASE` stays
`IDLE`; so for every operation of the host and for an illegal word, as the host's command step takes it. -/
def Obligations.FailedCommandWritesNothing : Prop :=
  (∀ (i : Instr) (s t : State) (status : Status) (r : Word), (∀ line, i ≠ .onEdge line) → s.phase = .idle →
    exec i s = .next t → t.response = some { status := status, result := r } → status ≠ .ok →
    r = 0 ∧ t = { s with response := t.response }) ∧
  ∀ (w : Command) (s t : State) (status : Status) (r : Word), s.phase = .idle →
    commandStep w s = .next t → t.response = some { status := status, result := r } → status ≠ .ok →
    r = 0 ∧ t = { s with response := t.response }

/-- R144: after a failed setup that side stays uninitialised: the setup fails again, `POLL` and `SET_FREQ` answer `ERR_NOT_INIT`,
and no line is enabled. -/
def Obligations.FailedSetupIsFatalToItsSide : Prop :=
  ∀ s : State, Inv s →
    (inputSetupOk s.cfg = false →
      exec .initIn s = .next { s with response := some { status := .errConfig, result := 0 } } ∧
      exec .poll s = .next { s with response := some { status := .errNotInit, result := 0 } } ∧
      ∀ l, readAt false s.irqEn l = false) ∧
    (outputSetupOk s.cfg = false →
      exec .initOut s = .next { s with response := some { status := .errConfig, result := 0 } } ∧
      ∀ j hz, j < s.cfg.m → hzValid hz = true →
        exec (.setFreq j hz) s = .next { s with response := some { status := .errNotInit, result := 0 } })

/-- R144, R164 (D41): the two sides are separate: the output operations write no input-side register, and the input operations
no output-side register. -/
def Obligations.TheTwoSidesAreSeparate : Prop :=
  ∀ (i : Instr) (s t : State), exec i s = .next t →
    ((i = .initOut ∨ ∃ j hz, i = .setFreq j hz) →
      t.cnt = s.cnt ∧ t.prev = s.prev ∧ t.freq = s.freq ∧ t.ovf = s.ovf ∧ t.lineMap = s.lineMap ∧
      t.irqEn = s.irqEn ∧ t.irqPol = s.irqPol ∧ t.pend = s.pend ∧ t.tlast = s.tlast ∧
      t.inInit = s.inInit ∧ t.phase = s.phase) ∧
    (¬ (i = .initOut ∨ ∃ j hz, i = .setFreq j hz) →
      t.hz = s.hz ∧ t.hp = s.hp ∧ t.bind = s.bind ∧ t.en = s.en ∧ t.cd = s.cd ∧ t.out = s.out ∧
      t.outInit = s.outInit)

/-! ## Reset and invariants -/

/-- R32, R160, R161: the reset input gives every register its reset value and leaves the clock alone. -/
def Obligations.ResetInputGivesResetValues : Prop :=
  ∀ (s : State) (rest : List Event), s.inputs = .reset :: rest →
    ∃ t, step s = .next t ∧ t.t = s.t ∧ t.cfg = s.cfg ∧
      (∀ i, i < s.cfg.n →
        t.cnt[i]? = some 0 ∧ t.prev[i]? = some 0 ∧ t.freq[i]? = some 0 ∧ t.ovf[i]? = some false) ∧
      (∀ l, l < s.cfg.l →
        t.lineMap[l]? = some none ∧ t.irqEn[l]? = some false ∧ t.irqPol[l]? = some .fall ∧
        t.pend[l]? = some 0) ∧
      (∀ j, j < s.cfg.m →
        t.hz[j]? = some 0 ∧ t.hp[j]? = some 0 ∧ t.cd[j]? = some 0 ∧ t.out[j]? = some false ∧
        t.bind[j]? = some 0 ∧ t.en[j]? = some false) ∧
      t.tlast = 0 ∧ t.inInit = false ∧ t.outInit = false ∧ t.phase = .idle

/-- R162, R163: in the reset state nothing is counted, computed or emitted, and every operation but the two setups answers an error
or a reset value. -/
def Obligations.ResetStateIsPassive : Prop :=
  ∀ (c : Config) (t : Nat) (s : State), c.wf = true → s = State.resetAt c t →
    (∀ l d, edgeDetect l d s = s) ∧
    (∀ l, exec (.onEdge l) s = .next s) ∧
    exec .poll s = .next { s with response := some { status := .errNotInit, result := 0 } } ∧
    (∀ i, i < c.n →
      exec (.getFreq i) s = .next { s with response := some { status := .ok, result := 0 } } ∧
      exec (.getFlags i) s = .next { s with response := some { status := .ok, result := 0 } }) ∧
    (∀ j hz, j < c.m → hzValid hz = true →
      exec (.setFreq j hz) s = .next { s with response := some { status := .errNotInit, result := 0 } }) ∧
    (∀ k, ticks k s = { s with t := t + k })

/-- R32: the reset state meets the invariant, whatever the parameters and the clock. -/
def Obligations.RegisterInvariantAtReset : Prop :=
  ∀ (c : Config) (t : Nat), c.wf = true → Inv (State.resetAt c t)

/-- R11 to R26, R130: the registers keep their shapes, widths and relations in every step of every agent: the frequencies stay finite
and non-negative (R13), the map stays that of the parameters (R14), only enabled lines have requests (R146), a stopped block has
`CD = 0` and a low pin and a running one at least one tick to go (R23), the half-period is that of the commanded frequency (R19,
R21), and the scratch of a `POLL` is what `PHASE` says (R26). -/
def Obligations.RegisterInvariantKept : Prop :=
  ∀ s t : State, Inv s → step s = .next t → Inv t

/-- R67, R159: the script line `POLL` ends its run: after its N + 2 steps nothing of the script is left, no command is in progress and no
request pending, and the state is that of the uninterrupted `POLL`. -/
def Obligations.ScriptedPollEndsTheRun : Prop :=
  ∀ s : State, s.cfg.wf = true → Shaped s → s.phase = .idle → s.inInit = true → (∀ x ∈ s.pend, x = 0) →
    s.inputs = pollLine s.cfg →
    ∃ t, RunEnds (s.cfg.n + 2) s t ∧ pollSteps (s.cfg.n + 2) { s with inputs := [] } = .next t

/-! ## Consumer boundary (outside the block, R100; log 17; joined to it, log 22) -/

/-- R115 (a): the lossy peak filter returns the samples of a strictly increasing sequence unchanged, whatever the number type, as long as
its `<` implies its `<=` (R114). -/
def Obligations.PeakFilterTracksRises : Prop :=
  ∀ (R : Type) (num : NumberType R) (c : Config) (st : LossyPeak R) (samples : List (R × Nat)),
    (∀ x y, num.lt x y = true → num.le x y = true) →
    (samples.map Prod.fst).Pairwise (fun x y => num.lt x y = true) →
    (∀ p ∈ samples, num.le st.peak p.1 = true) →
    feedPeak num c st samples = samples.map Prod.fst

/-- R112, R113, R115 (b), (c): over exact rationals (R114), after a peak `v0` set at `t0`, a constant lower value `v1` is answered by `v0`
while the delay lasts, then by the line that falls at `decay` per second from the end of the delay, and by `v1` from where that line
meets it; whatever the sampling instants. -/
def Obligations.PeakFilterHoldsThenDecays : Prop :=
  ∀ (c : Config) (st : LossyPeak ℚ) (v1 : ℚ) (times : List Nat),
    st.mode = .holding → st.tLast = st.tPeak → v1 < st.peak → 0 ≤ st.decay.value → 0 ≤ st.delay.value →
    times.Pairwise (· ≤ ·) → (∀ t ∈ times, st.tPeak ≤ t ∧ t < 2 ^ c.tw) →
    feedPeak exactNumbers c st (times.map fun t => (v1, t)) =
      times.map fun t =>
        if ((t - st.tPeak : Nat) : ℚ) ≤ st.delayUs exactNumbers then st.peak
        else max v1
          (st.peak - (((t - st.tPeak : Nat) : ℚ) - st.delayUs exactNumbers) / 1000000 * st.decay.value)

/-- R105, R106, R109: an unknown name resolves to the identity, whose name is "none" and which returns its input unchanged. -/
def Obligations.UnknownFilterIsTheIdentity : Prop :=
  (∀ (reg : Registry) (name : Text), (∀ known ∈ filterNames reg, sameName name known = false) →
    identifierForName reg name = identityId) ∧
  (∀ (reg : Registry) (id : Nat), 2 ≤ id → nameForIdentifier reg id = identityName) ∧
  ∀ (R : Type) (num : NumberType R) (c : Config) (x : R) (t : Nat),
    applyFilter num c .identity x t = (.identity, x)

/-- R108: serialized arguments parse back to the same state. -/
def Obligations.SerializedArgumentsParseBack : Prop :=
  ∀ (R : Type) (num : NumberType R) (reg : Registry) (text : Text) (now : Nat) (st : LossyPeak R),
    parseArguments num reg lossyPeakId text now = .state st →
    ∃ text', serializeArguments (.lossyPeak st) = some text' ∧
      parseArguments num reg lossyPeakId text' now = .state st

/-- R101, R102, R105, R107: configuring a channel replaces the descriptor in its slot and no other: by the lossy peak state its
arguments parse to, by the identity with a report where they are malformed, and by the identity without one for an unknown name. The joined
machine is log 22. -/
def Obligations.ConfigureReplacesTheSlot : Prop :=
  ∀ (R : Type) (num : NumberType R) (reg : Registry) (j : Joined R) (i : Nat) (name text : Text),
    i < j.slots.length →
    ∃ slots report, configureChannel num reg j i name text = ({ j with slots := slots }, report) ∧
      (sameName name identityName = false → sameName name reg.lossyPeakName = true →
        (∀ st, parseArguments num reg lossyPeakId text j.block.now = .state st →
          readAt .identity slots i = .lossyPeak st ∧ report = .accepted) ∧
        (parseArguments num reg lossyPeakId text j.block.now = .malformed →
          readAt .identity slots i = .identity ∧ report = .parseFailure)) ∧
      ((∀ known ∈ filterNames reg, sameName name known = false) →
        readAt .identity slots i = .identity ∧ report = .accepted) ∧
      ∀ k, k ≠ i → readAt .identity slots k = readAt .identity j.slots k

/-- R101, R106, R108: the status of a channel is its frequency, the name of its filter and its serialized arguments, none for the
identity; after a configuration with well-formed arguments those parse back to the configured state. The joined machine is
log 22. -/
def Obligations.StatusNamesTheFilter : Prop :=
  ∀ (R : Type) (num : NumberType R) (reg : Registry) (j : Joined R) (i : Nat), JoinedOk j → i < j.block.cfg.n →
    (readAt .identity j.slots i = .identity →
      channelStatus reg j i = some
        { frequency := readAt 0 j.block.freq i, filterName := identityName, arguments := none }) ∧
    ∀ (name text : Text) (st : LossyPeak R),
      sameName name identityName = false → sameName name reg.lossyPeakName = true →
      parseArguments num reg lossyPeakId text j.block.now = .state st →
      ∃ text', channelStatus reg (configureChannel num reg j i name text).1 i = some
          { frequency := readAt 0 j.block.freq i, filterName := reg.lossyPeakName, arguments := some text' } ∧
        parseArguments num reg lossyPeakId text' j.block.now = .state st

/-- R116: a computing commit gives every channel a sample to take and a throttled one gives none; no step of the block, so no interrupt,
touches a filter or a filtered sample. That a sample is flagged until it is taken is log 22. -/
def Obligations.ComputingPollMakesSamplesDue : Prop :=
  ∀ (R : Type) (j : Joined R), JoinedOk j →
    (∃ t, step j.block = .next t ∧ joinedBlockStep j = { j with block := t, due := (joinedBlockStep j).due }) ∧
    ∀ (rest : List Event) (snap : List Nat) (ts : Nat),
      j.block.inputs = .pollStep :: rest → j.block.phase = .sampled snap ts →
      (1000000 ≤ elapsedUs j.block.cfg j.block.tlast ts →
        ∀ i, i < j.block.cfg.n → readAt false (joinedBlockStep j).due i = true) ∧
      (elapsedUs j.block.cfg j.block.tlast ts < 1000000 → (joinedBlockStep j).due = j.due)

/-- R116: a due sample is taken once: `GET_FREQ i` answers it, the channel's filter is applied to its value at the present clock value,
the result is the channel's filtered sample, and the channel is due no more; the other channels are not touched. A sample
that is not due is not taken. That `GET_FREQ` and `apply` are one step is log 22. -/
def Obligations.DueSampleIsFilteredOnce : Prop :=
  ∀ (R : Type) (num : NumberType R) (j : Joined R) (i : Nat), JoinedOk j →
    (j.block.phase = .idle → i < j.block.cfg.n → readAt false j.due i = true →
      ∃ t, takeSample num j i = t ∧
        exec (.getFreq i) j.block = .next t.block ∧
        t.block = { j.block with response := some { status := .ok, result := readAt 0 j.block.freq i } } ∧
        readAt .identity t.slots i =
          (applyFilter num j.block.cfg (readAt .identity j.slots i)
            (num.ofPattern (readAt 0 j.block.freq i)) j.block.now).1 ∧
        readAt none t.filtered i = some
          (applyFilter num j.block.cfg (readAt .identity j.slots i)
            (num.ofPattern (readAt 0 j.block.freq i)) j.block.now).2 ∧
        readAt false t.due i = false ∧ takeSample num t i = t ∧
        ∀ k, k ≠ i → readAt .identity t.slots k = readAt .identity j.slots k ∧
          readAt none t.filtered k = readAt none j.filtered k ∧ readAt false t.due k = readAt false j.due k) ∧
    (readAt false j.due i = false → takeSample num j i = j)

/-- R102, R116: before any configuration the joined machine around a block that meets its invariant meets the joined one (log 22). -/
def Obligations.JoinedInvariantAtStart : Prop :=
  ∀ (R : Type) (s : State), Inv s → JoinedOk (Joined.initial s : Joined R)

/-- R102, R103, R116: whatever the host does, there stays one slot, one sample and one filtered sample per input channel, the filters' times
stay clock values, and the block keeps its own invariant (log 22). -/
def Obligations.JoinedInvariantKept : Prop :=
  ∀ (R : Type) (num : NumberType R) (reg : Registry) (j : Joined R) (e : HostEvent),
    JoinedOk j → JoinedOk (joinedStep num reg j e)
end

