-- ==== Sys2Proof/Laws/Binary32.lean ====
section
/-!
SUPPORT. The arithmetic of binary32 patterns: magnitudes are strictly increasing in the pattern, `floorPattern` is the largest
pattern below a quotient, and `val32` is the magnitude in units of `2^-149`.
-/

namespace Sys2Proof.Machine

/-- The next pattern is worth more (R93). -/
theorem magnitude_lt_succ (p : Nat) : magnitude p < magnitude (p + 1) := by
  unfold magnitude
  obtain ⟨x, f, hp, hf⟩ : ∃ x f, p = x * 2 ^ 23 + f ∧ f < 2 ^ 23 :=
    ⟨p / 2 ^ 23, p % 2 ^ 23, by omega, by omega⟩
  have hx : p / 2 ^ 23 = x := by omega
  have hm : p % 2 ^ 23 = f := by omega
  rw [hx, hm]
  by_cases hlast : f + 1 < 2 ^ 23
  · have hx' : (p + 1) / 2 ^ 23 = x := by omega
    have hm' : (p + 1) % 2 ^ 23 = f + 1 := by omega
    rw [hx', hm']
    split_ifs
    · omega
    · exact Nat.mul_lt_mul_of_pos_right (by omega) (by positivity)
  · have hx' : (p + 1) / 2 ^ 23 = x + 1 := by omega
    have hm' : (p + 1) % 2 ^ 23 = 0 := by omega
    rw [hx', hm']
    rcases x with _ | x
    · simp; omega
    · simp only [Nat.add_eq_zero_iff, one_ne_zero, and_false, if_false, Nat.add_sub_cancel, pow_succ]
      have : 0 < 2 ^ x := by positivity
      nlinarith

theorem magnitude_strictMono : StrictMono magnitude := strictMono_nat_of_lt_succ magnitude_lt_succ

@[simp] theorem magnitude_zero : magnitude 0 = 0 := by simp [magnitude]

theorem fitsBelow_iff (num den c : Nat) :
    fitsBelow num den c = true ↔ c ≤ maxFinite ∧ magnitude c * den ≤ num * 2 ^ 149 := by
  simp [fitsBelow]

/-- What fits below a quotient is closed downwards. -/
theorem fitsBelow_mono (num den a c : Nat) (hac : a ≤ c) (h : fitsBelow num den c = true) :
    fitsBelow num den a = true := by
  rw [fitsBelow_iff] at h ⊢
  exact ⟨by omega, le_trans (Nat.mul_le_mul_right _ (magnitude_strictMono.monotone hac)) h.2⟩

/-- The bitwise search answers the largest pattern of its range that fits. -/
theorem floorBits_spec (num den k acc : Nat) (h : fitsBelow num den acc = true) :
    fitsBelow num den (floorBits num den k acc) = true ∧
      ∀ c, c < acc + 2 ^ k → fitsBelow num den c = true → c ≤ floorBits num den k acc := by
  induction k generalizing acc with
  | zero => exact ⟨h, fun c hc _ => by simp [floorBits] at hc ⊢; omega⟩
  | succ k ih =>
    simp only [floorBits]
    split_ifs with hc
    · obtain ⟨h1, h2⟩ := ih _ hc
      exact ⟨h1, fun c hlt hf => h2 c (by rw [pow_succ] at hlt; omega) hf⟩
    · obtain ⟨h1, h2⟩ := ih _ h
      refine ⟨h1, fun c hlt hf => h2 c ?_ hf⟩
      by_contra hge
      exact hc (fitsBelow_mono num den _ c (by omega) hf)

/-- `floorPattern num den` is the largest finite pattern whose value is at most `num / den`. -/
theorem floorPattern_spec (num den : Nat) :
    (floorPattern num den ≤ maxFinite ∧ magnitude (floorPattern num den) * den ≤ num * 2 ^ 149) ∧
      ∀ c, c ≤ maxFinite → magnitude c * den ≤ num * 2 ^ 149 → c ≤ floorPattern num den := by
  have h0 : fitsBelow num den 0 = true := by rw [fitsBelow_iff]; simp
  obtain ⟨h1, h2⟩ := floorBits_spec num den 31 0 h0
  refine ⟨(fitsBelow_iff ..).1 h1, fun c hc hm => h2 c ?_ ((fitsBelow_iff ..).2 ⟨hc, hm⟩)⟩
  have : maxFinite < 2 ^ 31 := by decide
  omega

/-- Below the top, the next pattern after `floorPattern` is worth more than the quotient. -/
theorem lt_magnitude_succ_floorPattern (num den : Nat) (h : floorPattern num den < maxFinite) :
    num * 2 ^ 149 < magnitude (floorPattern num den + 1) * den := by
  by_contra hle
  have := (floorPattern_spec num den).2 (floorPattern num den + 1) (by omega) (by omega)
  omega

/-- The exponent and fraction fields of a pattern as quotient and remainder. -/
theorem expField_eq (b : Word) : expField b = b.toNat / 2 ^ 23 % 2 ^ 8 := by
  simp [expField, BitVec.extractLsb'_toNat, Nat.shiftRight_eq_div_pow]

theorem fracField_eq (b : Word) : fracField b = b.toNat % 2 ^ 23 := by
  simp [fracField, BitVec.extractLsb'_toNat]

theorem signBit_eq (b : Word) : signBit b = decide (2 ^ 31 ≤ b.toNat) := by
  simp only [signBit]
  rw [show b.getLsbD 31 = b.msb by rw [BitVec.msb_eq_getLsbD_last]]
  exact BitVec.msb_eq_decide b

/-- The value of a finite pattern is its magnitude in units of `2^-149`, with its sign (R93). -/
theorem val32_eq (b : Word) :
    val32 b = (if signBit b then -1 else 1) * ((magnitude (unsignedPattern b) : ℚ) / 2 ^ 149) := by
  unfold val32
  congr 1
  have hx : unsignedPattern b / 2 ^ 23 = expField b := by rw [expField_eq, unsignedPattern]; omega
  have hf : unsignedPattern b % 2 ^ 23 = fracField b := by rw [fracField_eq, unsignedPattern]; omega
  unfold magnitude
  rw [hx, hf]
  split_ifs with h
  · rw [zpow_neg]; field_simp
  · obtain ⟨x, hx⟩ : ∃ x, expField b = x + 1 := ⟨expField b - 1, by omega⟩
    rw [hx]
    have : (2 : ℚ) ^ (((x + 1 : Nat) : ℤ) - 150) = 2 ^ x / 2 ^ 149 := by
      rw [show (((x + 1 : Nat) : ℤ) - 150) = (x : ℤ) - 149 by push_cast; ring, zpow_sub₀ (by norm_num)]
      norm_cast
    rw [this]; push_cast; ring

/-- Magnitude 0 is the pattern 0. -/
theorem magnitude_eq_zero (p : Nat) : magnitude p = 0 ↔ p = 0 := by
  constructor
  · intro h
    by_contra hp
    have := magnitude_strictMono (Nat.pos_of_ne_zero hp)
    simp at this; omega
  · rintro rfl; simp

end Sys2Proof.Machine
end

