-- ==== Sys2Proof/Laws/Encoding.lean ====
section
/-!
SUPPORT. The fields of a command: what a laid-out command's fields are, a command from its fields, and a row's test field by field.
-/

namespace Sys2Proof

@[simp] theorem encodeFields_opc (opc idx : Byte) (data : Word) : (encodeFields opc idx data).opc = opc := by
  apply BitVec.eq_of_getLsbD_eq
  intro i hi
  simp only [Command.opc, encodeFields, BitVec.getLsbD_extractLsb', BitVec.getLsbD_append]
  simp (disch := omega) [hi]
  omega

@[simp] theorem encodeFields_idx (opc idx : Byte) (data : Word) : (encodeFields opc idx data).idx = idx := by
  apply BitVec.eq_of_getLsbD_eq
  intro i hi
  simp only [Command.idx, encodeFields, BitVec.getLsbD_extractLsb', BitVec.getLsbD_append]
  simp (disch := omega) [hi, show 16 + i < 32 by omega, show 16 + i < 24 by omega]

@[simp] theorem encodeFields_data (opc idx : Byte) (data : Word) : (encodeFields opc idx data).data = data := by
  apply BitVec.eq_of_getLsbD_eq
  intro i hi
  simp only [Command.data, encodeFields, BitVec.getLsbD_extractLsb', BitVec.getLsbD_append]
  simp (disch := omega) [hi]

@[simp] theorem encodeFields_rsv (opc idx : Byte) (data : Word) : (encodeFields opc idx data).rsv = 0 := by
  apply BitVec.eq_of_getLsbD_eq
  intro i hi
  simp only [Command.rsv, encodeFields, BitVec.getLsbD_extractLsb', BitVec.getLsbD_append]
  simp (disch := omega) [hi, show i < 32 by omega]
  intro hc
  omega

/-- Two commands with the same four fields are the same. -/
theorem Command.ext_fields (a b : Command) (h1 : a.opc = b.opc) (h2 : a.idx = b.idx) (h3 : a.data = b.data)
    (h4 : a.rsv = b.rsv) : a = b := by
  apply BitVec.eq_of_getLsbD_eq
  intro i hi
  have key : ∀ st len : Nat, a.extractLsb' st len = b.extractLsb' st len → st ≤ i → i < st + len →
      a.getLsbD i = b.getLsbD i := by
    intro st len h hl hu
    have := congrArg (fun v => v.getLsbD (i - st)) h
    simpa [BitVec.getLsbD_extractLsb', show i - st < len by omega, show st + (i - st) = i by omega] using this
  by_cases c1 : i < 16
  · exact key 0 16 h4 (by omega) (by omega)
  by_cases c2 : i < 24
  · exact key 16 8 h2 (by omega) (by omega)
  by_cases c3 : i < 32
  · exact key 24 8 h1 (by omega) (by omega)
  · exact key 32 32 h3 (by omega) (by omega)

/-- A command whose reserved field is zero is laid out by `encodeFields`. -/
theorem Command.eq_encodeFields (w : Command) (h : w.rsv = 0) : encodeFields w.opc w.idx w.data = w := by
  apply Command.ext_fields <;> simp [h]

/-- A row's test, field by field. -/
theorem OpcodeRow.selects_iff (r : OpcodeRow) (w : Command) : r.selects w = true ↔
    w.opc &&& r.mask.opc = r.pattern.opc ∧ w.idx &&& r.mask.idx = r.pattern.idx ∧
    w.data &&& r.mask.data = r.pattern.data ∧ w.rsv &&& r.mask.rsv = r.pattern.rsv := by
  have e1 : Command.opc (w &&& r.mask) = w.opc &&& r.mask.opc := by simp [Command.opc, BitVec.extractLsb'_and]
  have e2 : Command.idx (w &&& r.mask) = w.idx &&& r.mask.idx := by simp [Command.idx, BitVec.extractLsb'_and]
  have e3 : Command.data (w &&& r.mask) = w.data &&& r.mask.data := by simp [Command.data, BitVec.extractLsb'_and]
  have e4 : Command.rsv (w &&& r.mask) = w.rsv &&& r.mask.rsv := by simp [Command.rsv, BitVec.extractLsb'_and]
  simp only [OpcodeRow.selects, beq_iff_eq]
  rw [← e1, ← e2, ← e3, ← e4]
  exact ⟨fun h => by rw [h]; simp, fun ⟨a, b, c, d⟩ => Command.ext_fields _ _ a b c d⟩

/-- The six rows, one by one. -/
theorem forall_opcodeRows (p : Nat → OpcodeRow → Prop) :
    (∀ (n : Nat) (r : OpcodeRow), opcodeRows[n]? = some r → p n r) ↔
      p 0 { pattern := 0x0000000001000000, mask := 0xFFFFFFFFFFFFFFFF } ∧
      p 1 { pattern := 0x0000000002000000, mask := 0xFFFFFFFFFFFFFFFF } ∧
      p 2 { pattern := 0x0000000003000000, mask := 0xFFFFFFFFFFFFFFFF } ∧
      p 3 { pattern := 0x0000000004000000, mask := 0x00000000FF00FFFF } ∧
      p 4 { pattern := 0x0000000005000000, mask := 0xFFFFFFFFFF00FFFF } ∧
      p 5 { pattern := 0x0000000006000000, mask := 0xFFFFFFFFFF00FFFF } := by
  constructor
  · intro h
    exact ⟨h 0 _ rfl, h 1 _ rfl, h 2 _ rfl, h 3 _ rfl, h 4 _ rfl, h 5 _ rfl⟩
  · rintro ⟨h0, h1, h2, h3, h4, h5⟩ n r hr
    rcases n with _ | _ | _ | _ | _ | _ | n <;> simp [opcodeRows] at hr <;> subst hr <;> assumption

end Sys2Proof
end

