-- ==== Sys2Proof/Laws/State.lean ====
section
/-!
SUPPORT. For each named update of the state, what it does to each register: one lemma per field, so that no later proof unfolds a
record update.
-/

namespace Sys2Proof.Machine

@[simp] theorem State.respond_cfg (s : State) (status : Status) (result : Word) : (s.respond status result).cfg = s.cfg := rfl
@[simp] theorem State.respond_cnt (s : State) (status : Status) (result : Word) : (s.respond status result).cnt = s.cnt := rfl
@[simp] theorem State.respond_prev (s : State) (status : Status) (result : Word) : (s.respond status result).prev = s.prev := rfl
@[simp] theorem State.respond_freq (s : State) (status : Status) (result : Word) : (s.respond status result).freq = s.freq := rfl
@[simp] theorem State.respond_ovf (s : State) (status : Status) (result : Word) : (s.respond status result).ovf = s.ovf := rfl
@[simp] theorem State.respond_lineMap (s : State) (status : Status) (result : Word) : (s.respond status result).lineMap = s.lineMap := rfl
@[simp] theorem State.respond_irqEn (s : State) (status : Status) (result : Word) : (s.respond status result).irqEn = s.irqEn := rfl
@[simp] theorem State.respond_irqPol (s : State) (status : Status) (result : Word) : (s.respond status result).irqPol = s.irqPol := rfl
@[simp] theorem State.respond_pend (s : State) (status : Status) (result : Word) : (s.respond status result).pend = s.pend := rfl
@[simp] theorem State.respond_tlast (s : State) (status : Status) (result : Word) : (s.respond status result).tlast = s.tlast := rfl
@[simp] theorem State.respond_inInit (s : State) (status : Status) (result : Word) : (s.respond status result).inInit = s.inInit := rfl
@[simp] theorem State.respond_hz (s : State) (status : Status) (result : Word) : (s.respond status result).hz = s.hz := rfl
@[simp] theorem State.respond_hp (s : State) (status : Status) (result : Word) : (s.respond status result).hp = s.hp := rfl
@[simp] theorem State.respond_bind (s : State) (status : Status) (result : Word) : (s.respond status result).bind = s.bind := rfl
@[simp] theorem State.respond_en (s : State) (status : Status) (result : Word) : (s.respond status result).en = s.en := rfl
@[simp] theorem State.respond_cd (s : State) (status : Status) (result : Word) : (s.respond status result).cd = s.cd := rfl
@[simp] theorem State.respond_out (s : State) (status : Status) (result : Word) : (s.respond status result).out = s.out := rfl
@[simp] theorem State.respond_outInit (s : State) (status : Status) (result : Word) : (s.respond status result).outInit = s.outInit := rfl
@[simp] theorem State.respond_phase (s : State) (status : Status) (result : Word) : (s.respond status result).phase = s.phase := rfl
@[simp] theorem State.respond_t (s : State) (status : Status) (result : Word) : (s.respond status result).t = s.t := rfl
@[simp] theorem State.respond_response (s : State) (status : Status) (result : Word) : (s.respond status result).response = some { status := status, result := result } := rfl
@[simp] theorem State.respond_inputs (s : State) (status : Status) (result : Word) : (s.respond status result).inputs = s.inputs := rfl
@[simp] theorem State.respond_drawn (s : State) (status : Status) (result : Word) : (s.respond status result).drawn = s.drawn := rfl

@[simp] theorem State.popped_cfg (s : State) : s.popped.cfg = s.cfg := rfl
@[simp] theorem State.popped_cnt (s : State) : s.popped.cnt = s.cnt := rfl
@[simp] theorem State.popped_prev (s : State) : s.popped.prev = s.prev := rfl
@[simp] theorem State.popped_freq (s : State) : s.popped.freq = s.freq := rfl
@[simp] theorem State.popped_ovf (s : State) : s.popped.ovf = s.ovf := rfl
@[simp] theorem State.popped_lineMap (s : State) : s.popped.lineMap = s.lineMap := rfl
@[simp] theorem State.popped_irqEn (s : State) : s.popped.irqEn = s.irqEn := rfl
@[simp] theorem State.popped_irqPol (s : State) : s.popped.irqPol = s.irqPol := rfl
@[simp] theorem State.popped_pend (s : State) : s.popped.pend = s.pend := rfl
@[simp] theorem State.popped_tlast (s : State) : s.popped.tlast = s.tlast := rfl
@[simp] theorem State.popped_inInit (s : State) : s.popped.inInit = s.inInit := rfl
@[simp] theorem State.popped_hz (s : State) : s.popped.hz = s.hz := rfl
@[simp] theorem State.popped_hp (s : State) : s.popped.hp = s.hp := rfl
@[simp] theorem State.popped_bind (s : State) : s.popped.bind = s.bind := rfl
@[simp] theorem State.popped_en (s : State) : s.popped.en = s.en := rfl
@[simp] theorem State.popped_cd (s : State) : s.popped.cd = s.cd := rfl
@[simp] theorem State.popped_out (s : State) : s.popped.out = s.out := rfl
@[simp] theorem State.popped_outInit (s : State) : s.popped.outInit = s.outInit := rfl
@[simp] theorem State.popped_phase (s : State) : s.popped.phase = s.phase := rfl
@[simp] theorem State.popped_t (s : State) : s.popped.t = s.t := rfl
@[simp] theorem State.popped_response (s : State) : s.popped.response = s.response := rfl
@[simp] theorem State.popped_inputs (s : State) : s.popped.inputs = s.inputs.tail := rfl
@[simp] theorem State.popped_drawn (s : State) : s.popped.drawn = s.drawn := rfl

@[simp] theorem atomicInc_cfg (s : State) (c : Nat) : (atomicInc s c).cfg = s.cfg := rfl
@[simp] theorem atomicInc_cnt (s : State) (c : Nat) : (atomicInc s c).cnt = s.cnt.modify c fun x => (x + 1) % 2 ^ s.cfg.cw := rfl
@[simp] theorem atomicInc_prev (s : State) (c : Nat) : (atomicInc s c).prev = s.prev := rfl
@[simp] theorem atomicInc_freq (s : State) (c : Nat) : (atomicInc s c).freq = s.freq := rfl
@[simp] theorem atomicInc_ovf (s : State) (c : Nat) : (atomicInc s c).ovf = s.ovf := rfl
@[simp] theorem atomicInc_lineMap (s : State) (c : Nat) : (atomicInc s c).lineMap = s.lineMap := rfl
@[simp] theorem atomicInc_irqEn (s : State) (c : Nat) : (atomicInc s c).irqEn = s.irqEn := rfl
@[simp] theorem atomicInc_irqPol (s : State) (c : Nat) : (atomicInc s c).irqPol = s.irqPol := rfl
@[simp] theorem atomicInc_pend (s : State) (c : Nat) : (atomicInc s c).pend = s.pend := rfl
@[simp] theorem atomicInc_tlast (s : State) (c : Nat) : (atomicInc s c).tlast = s.tlast := rfl
@[simp] theorem atomicInc_inInit (s : State) (c : Nat) : (atomicInc s c).inInit = s.inInit := rfl
@[simp] theorem atomicInc_hz (s : State) (c : Nat) : (atomicInc s c).hz = s.hz := rfl
@[simp] theorem atomicInc_hp (s : State) (c : Nat) : (atomicInc s c).hp = s.hp := rfl
@[simp] theorem atomicInc_bind (s : State) (c : Nat) : (atomicInc s c).bind = s.bind := rfl
@[simp] theorem atomicInc_en (s : State) (c : Nat) : (atomicInc s c).en = s.en := rfl
@[simp] theorem atomicInc_cd (s : State) (c : Nat) : (atomicInc s c).cd = s.cd := rfl
@[simp] theorem atomicInc_out (s : State) (c : Nat) : (atomicInc s c).out = s.out := rfl
@[simp] theorem atomicInc_outInit (s : State) (c : Nat) : (atomicInc s c).outInit = s.outInit := rfl
@[simp] theorem atomicInc_phase (s : State) (c : Nat) : (atomicInc s c).phase = s.phase := rfl
@[simp] theorem atomicInc_t (s : State) (c : Nat) : (atomicInc s c).t = s.t := rfl
@[simp] theorem atomicInc_response (s : State) (c : Nat) : (atomicInc s c).response = s.response := rfl
@[simp] theorem atomicInc_inputs (s : State) (c : Nat) : (atomicInc s c).inputs = s.inputs := rfl
@[simp] theorem atomicInc_drawn (s : State) (c : Nat) : (atomicInc s c).drawn = s.drawn := rfl

@[simp] theorem takeRequest_cfg (line : Nat) (s : State) : (takeRequest line s).cfg = s.cfg := rfl
@[simp] theorem takeRequest_cnt (line : Nat) (s : State) : (takeRequest line s).cnt = s.cnt := rfl
@[simp] theorem takeRequest_prev (line : Nat) (s : State) : (takeRequest line s).prev = s.prev := rfl
@[simp] theorem takeRequest_freq (line : Nat) (s : State) : (takeRequest line s).freq = s.freq := rfl
@[simp] theorem takeRequest_ovf (line : Nat) (s : State) : (takeRequest line s).ovf = s.ovf := rfl
@[simp] theorem takeRequest_lineMap (line : Nat) (s : State) : (takeRequest line s).lineMap = s.lineMap := rfl
@[simp] theorem takeRequest_irqEn (line : Nat) (s : State) : (takeRequest line s).irqEn = s.irqEn := rfl
@[simp] theorem takeRequest_irqPol (line : Nat) (s : State) : (takeRequest line s).irqPol = s.irqPol := rfl
@[simp] theorem takeRequest_pend (line : Nat) (s : State) : (takeRequest line s).pend = s.pend.modify line (· - 1) := rfl
@[simp] theorem takeRequest_tlast (line : Nat) (s : State) : (takeRequest line s).tlast = s.tlast := rfl
@[simp] theorem takeRequest_inInit (line : Nat) (s : State) : (takeRequest line s).inInit = s.inInit := rfl
@[simp] theorem takeRequest_hz (line : Nat) (s : State) : (takeRequest line s).hz = s.hz := rfl
@[simp] theorem takeRequest_hp (line : Nat) (s : State) : (takeRequest line s).hp = s.hp := rfl
@[simp] theorem takeRequest_bind (line : Nat) (s : State) : (takeRequest line s).bind = s.bind := rfl
@[simp] theorem takeRequest_en (line : Nat) (s : State) : (takeRequest line s).en = s.en := rfl
@[simp] theorem takeRequest_cd (line : Nat) (s : State) : (takeRequest line s).cd = s.cd := rfl
@[simp] theorem takeRequest_out (line : Nat) (s : State) : (takeRequest line s).out = s.out := rfl
@[simp] theorem takeRequest_outInit (line : Nat) (s : State) : (takeRequest line s).outInit = s.outInit := rfl
@[simp] theorem takeRequest_phase (line : Nat) (s : State) : (takeRequest line s).phase = s.phase := rfl
@[simp] theorem takeRequest_t (line : Nat) (s : State) : (takeRequest line s).t = s.t := rfl
@[simp] theorem takeRequest_response (line : Nat) (s : State) : (takeRequest line s).response = s.response := rfl
@[simp] theorem takeRequest_inputs (line : Nat) (s : State) : (takeRequest line s).inputs = s.inputs := rfl
@[simp] theorem takeRequest_drawn (line : Nat) (s : State) : (takeRequest line s).drawn = s.drawn := rfl

@[simp] theorem setupInputs_cfg (s : State) : (setupInputs s).cfg = s.cfg := rfl
@[simp] theorem setupInputs_cnt (s : State) : (setupInputs s).cnt = s.cnt := rfl
@[simp] theorem setupInputs_prev (s : State) : (setupInputs s).prev = s.prev := rfl
@[simp] theorem setupInputs_freq (s : State) : (setupInputs s).freq = s.freq := rfl
@[simp] theorem setupInputs_ovf (s : State) : (setupInputs s).ovf = s.ovf := rfl
@[simp] theorem setupInputs_lineMap (s : State) : (setupInputs s).lineMap = builtLineMap s.cfg := rfl
@[simp] theorem setupInputs_irqEn (s : State) : (setupInputs s).irqEn = enabledLines s.cfg s.irqEn := rfl
@[simp] theorem setupInputs_irqPol (s : State) : (setupInputs s).irqPol = policyOfLines s.cfg s.irqPol := rfl
@[simp] theorem setupInputs_pend (s : State) : (setupInputs s).pend = s.pend := rfl
@[simp] theorem setupInputs_tlast (s : State) : (setupInputs s).tlast = s.now := rfl
@[simp] theorem setupInputs_inInit (s : State) : (setupInputs s).inInit = true := rfl
@[simp] theorem setupInputs_hz (s : State) : (setupInputs s).hz = s.hz := rfl
@[simp] theorem setupInputs_hp (s : State) : (setupInputs s).hp = s.hp := rfl
@[simp] theorem setupInputs_bind (s : State) : (setupInputs s).bind = s.bind := rfl
@[simp] theorem setupInputs_en (s : State) : (setupInputs s).en = s.en := rfl
@[simp] theorem setupInputs_cd (s : State) : (setupInputs s).cd = s.cd := rfl
@[simp] theorem setupInputs_out (s : State) : (setupInputs s).out = s.out := rfl
@[simp] theorem setupInputs_outInit (s : State) : (setupInputs s).outInit = s.outInit := rfl
@[simp] theorem setupInputs_phase (s : State) : (setupInputs s).phase = s.phase := rfl
@[simp] theorem setupInputs_t (s : State) : (setupInputs s).t = s.t := rfl
@[simp] theorem setupInputs_response (s : State) : (setupInputs s).response = s.response := rfl
@[simp] theorem setupInputs_inputs (s : State) : (setupInputs s).inputs = s.inputs := rfl
@[simp] theorem setupInputs_drawn (s : State) : (setupInputs s).drawn = s.drawn := rfl

@[simp] theorem compute_cfg (s : State) (snap : List Nat) (ts : Nat) : (compute s snap ts).cfg = s.cfg := rfl
@[simp] theorem compute_cnt (s : State) (snap : List Nat) (ts : Nat) : (compute s snap ts).cnt = s.cnt := rfl
@[simp] theorem compute_prev (s : State) (snap : List Nat) (ts : Nat) : (compute s snap ts).prev = tabulate s.cfg.n (readAt 0 snap) := rfl
@[simp] theorem compute_freq (s : State) (snap : List Nat) (ts : Nat) : (compute s snap ts).freq = tabulate s.cfg.n (channelFreq s snap (elapsedUs s.cfg s.tlast ts)) := rfl
@[simp] theorem compute_ovf (s : State) (snap : List Nat) (ts : Nat) : (compute s snap ts).ovf = tabulate s.cfg.n (negativeDelta s snap) := rfl
@[simp] theorem compute_lineMap (s : State) (snap : List Nat) (ts : Nat) : (compute s snap ts).lineMap = s.lineMap := rfl
@[simp] theorem compute_irqEn (s : State) (snap : List Nat) (ts : Nat) : (compute s snap ts).irqEn = s.irqEn := rfl
@[simp] theorem compute_irqPol (s : State) (snap : List Nat) (ts : Nat) : (compute s snap ts).irqPol = s.irqPol := rfl
@[simp] theorem compute_pend (s : State) (snap : List Nat) (ts : Nat) : (compute s snap ts).pend = s.pend := rfl
@[simp] theorem compute_tlast (s : State) (snap : List Nat) (ts : Nat) : (compute s snap ts).tlast = ts := rfl
@[simp] theorem compute_inInit (s : State) (snap : List Nat) (ts : Nat) : (compute s snap ts).inInit = s.inInit := rfl
@[simp] theorem compute_hz (s : State) (snap : List Nat) (ts : Nat) : (compute s snap ts).hz = s.hz := rfl
@[simp] theorem compute_hp (s : State) (snap : List Nat) (ts : Nat) : (compute s snap ts).hp = s.hp := rfl
@[simp] theorem compute_bind (s : State) (snap : List Nat) (ts : Nat) : (compute s snap ts).bind = s.bind := rfl
@[simp] theorem compute_en (s : State) (snap : List Nat) (ts : Nat) : (compute s snap ts).en = s.en := rfl
@[simp] theorem compute_cd (s : State) (snap : List Nat) (ts : Nat) : (compute s snap ts).cd = s.cd := rfl
@[simp] theorem compute_out (s : State) (snap : List Nat) (ts : Nat) : (compute s snap ts).out = s.out := rfl
@[simp] theorem compute_outInit (s : State) (snap : List Nat) (ts : Nat) : (compute s snap ts).outInit = s.outInit := rfl
@[simp] theorem compute_phase (s : State) (snap : List Nat) (ts : Nat) : (compute s snap ts).phase = s.phase := rfl
@[simp] theorem compute_t (s : State) (snap : List Nat) (ts : Nat) : (compute s snap ts).t = s.t := rfl
@[simp] theorem compute_response (s : State) (snap : List Nat) (ts : Nat) : (compute s snap ts).response = s.response := rfl
@[simp] theorem compute_inputs (s : State) (snap : List Nat) (ts : Nat) : (compute s snap ts).inputs = s.inputs := rfl
@[simp] theorem compute_drawn (s : State) (snap : List Nat) (ts : Nat) : (compute s snap ts).drawn = s.drawn := rfl

@[simp] theorem setupOutputs_cfg (s : State) : (setupOutputs s).cfg = s.cfg := rfl
@[simp] theorem setupOutputs_cnt (s : State) : (setupOutputs s).cnt = s.cnt := rfl
@[simp] theorem setupOutputs_prev (s : State) : (setupOutputs s).prev = s.prev := rfl
@[simp] theorem setupOutputs_freq (s : State) : (setupOutputs s).freq = s.freq := rfl
@[simp] theorem setupOutputs_ovf (s : State) : (setupOutputs s).ovf = s.ovf := rfl
@[simp] theorem setupOutputs_lineMap (s : State) : (setupOutputs s).lineMap = s.lineMap := rfl
@[simp] theorem setupOutputs_irqEn (s : State) : (setupOutputs s).irqEn = s.irqEn := rfl
@[simp] theorem setupOutputs_irqPol (s : State) : (setupOutputs s).irqPol = s.irqPol := rfl
@[simp] theorem setupOutputs_pend (s : State) : (setupOutputs s).pend = s.pend := rfl
@[simp] theorem setupOutputs_tlast (s : State) : (setupOutputs s).tlast = s.tlast := rfl
@[simp] theorem setupOutputs_inInit (s : State) : (setupOutputs s).inInit = s.inInit := rfl
@[simp] theorem setupOutputs_hz (s : State) : (setupOutputs s).hz = tabulate s.cfg.m fun _ => 0 := rfl
@[simp] theorem setupOutputs_hp (s : State) : (setupOutputs s).hp = tabulate s.cfg.m fun _ => 0 := rfl
@[simp] theorem setupOutputs_bind (s : State) : (setupOutputs s).bind = tabulate s.cfg.m id := rfl
@[simp] theorem setupOutputs_en (s : State) : (setupOutputs s).en = tabulate s.cfg.m fun _ => true := rfl
@[simp] theorem setupOutputs_cd (s : State) : (setupOutputs s).cd = tabulate s.cfg.m fun _ => 0 := rfl
@[simp] theorem setupOutputs_out (s : State) : (setupOutputs s).out = tabulate s.cfg.m fun _ => false := rfl
@[simp] theorem setupOutputs_outInit (s : State) : (setupOutputs s).outInit = true := rfl
@[simp] theorem setupOutputs_phase (s : State) : (setupOutputs s).phase = s.phase := rfl
@[simp] theorem setupOutputs_t (s : State) : (setupOutputs s).t = s.t := rfl
@[simp] theorem setupOutputs_response (s : State) : (setupOutputs s).response = s.response := rfl
@[simp] theorem setupOutputs_inputs (s : State) : (setupOutputs s).inputs = s.inputs := rfl
@[simp] theorem setupOutputs_drawn (s : State) : (setupOutputs s).drawn = s.drawn := rfl

@[simp] theorem tick_cfg (s : State) : (tick s).cfg = s.cfg := rfl
@[simp] theorem tick_cnt (s : State) : (tick s).cnt = s.cnt := rfl
@[simp] theorem tick_prev (s : State) : (tick s).prev = s.prev := rfl
@[simp] theorem tick_freq (s : State) : (tick s).freq = s.freq := rfl
@[simp] theorem tick_ovf (s : State) : (tick s).ovf = s.ovf := rfl
@[simp] theorem tick_lineMap (s : State) : (tick s).lineMap = s.lineMap := rfl
@[simp] theorem tick_irqEn (s : State) : (tick s).irqEn = s.irqEn := rfl
@[simp] theorem tick_irqPol (s : State) : (tick s).irqPol = s.irqPol := rfl
@[simp] theorem tick_pend (s : State) : (tick s).pend = s.pend := rfl
@[simp] theorem tick_tlast (s : State) : (tick s).tlast = s.tlast := rfl
@[simp] theorem tick_inInit (s : State) : (tick s).inInit = s.inInit := rfl
@[simp] theorem tick_hz (s : State) : (tick s).hz = s.hz := rfl
@[simp] theorem tick_hp (s : State) : (tick s).hp = s.hp := rfl
@[simp] theorem tick_bind (s : State) : (tick s).bind = s.bind := rfl
@[simp] theorem tick_en (s : State) : (tick s).en = s.en := rfl
@[simp] theorem tick_cd (s : State) : (tick s).cd = tabulate s.cfg.m (tickedCd s) := rfl
@[simp] theorem tick_out (s : State) : (tick s).out = tabulate s.cfg.m (tickedOut s) := rfl
@[simp] theorem tick_outInit (s : State) : (tick s).outInit = s.outInit := rfl
@[simp] theorem tick_phase (s : State) : (tick s).phase = s.phase := rfl
@[simp] theorem tick_t (s : State) : (tick s).t = s.t + 1 := rfl
@[simp] theorem tick_response (s : State) : (tick s).response = s.response := rfl
@[simp] theorem tick_inputs (s : State) : (tick s).inputs = s.inputs := rfl
@[simp] theorem tick_drawn (s : State) : (tick s).drawn = s.drawn := rfl

@[simp] theorem edgeDetect_cfg (line : Nat) (edge : Edge) (s : State) : (edgeDetect line edge s).cfg = s.cfg := by unfold edgeDetect; split <;> rfl
@[simp] theorem edgeDetect_cnt (line : Nat) (edge : Edge) (s : State) : (edgeDetect line edge s).cnt = s.cnt := by unfold edgeDetect; split <;> rfl
@[simp] theorem edgeDetect_prev (line : Nat) (edge : Edge) (s : State) : (edgeDetect line edge s).prev = s.prev := by unfold edgeDetect; split <;> rfl
@[simp] theorem edgeDetect_freq (line : Nat) (edge : Edge) (s : State) : (edgeDetect line edge s).freq = s.freq := by unfold edgeDetect; split <;> rfl
@[simp] theorem edgeDetect_ovf (line : Nat) (edge : Edge) (s : State) : (edgeDetect line edge s).ovf = s.ovf := by unfold edgeDetect; split <;> rfl
@[simp] theorem edgeDetect_lineMap (line : Nat) (edge : Edge) (s : State) : (edgeDetect line edge s).lineMap = s.lineMap := by unfold edgeDetect; split <;> rfl
@[simp] theorem edgeDetect_irqEn (line : Nat) (edge : Edge) (s : State) : (edgeDetect line edge s).irqEn = s.irqEn := by unfold edgeDetect; split <;> rfl
@[simp] theorem edgeDetect_irqPol (line : Nat) (edge : Edge) (s : State) : (edgeDetect line edge s).irqPol = s.irqPol := by unfold edgeDetect; split <;> rfl
@[simp] theorem edgeDetect_tlast (line : Nat) (edge : Edge) (s : State) : (edgeDetect line edge s).tlast = s.tlast := by unfold edgeDetect; split <;> rfl
@[simp] theorem edgeDetect_inInit (line : Nat) (edge : Edge) (s : State) : (edgeDetect line edge s).inInit = s.inInit := by unfold edgeDetect; split <;> rfl
@[simp] theorem edgeDetect_hz (line : Nat) (edge : Edge) (s : State) : (edgeDetect line edge s).hz = s.hz := by unfold edgeDetect; split <;> rfl
@[simp] theorem edgeDetect_hp (line : Nat) (edge : Edge) (s : State) : (edgeDetect line edge s).hp = s.hp := by unfold edgeDetect; split <;> rfl
@[simp] theorem edgeDetect_bind (line : Nat) (edge : Edge) (s : State) : (edgeDetect line edge s).bind = s.bind := by unfold edgeDetect; split <;> rfl
@[simp] theorem edgeDetect_en (line : Nat) (edge : Edge) (s : State) : (edgeDetect line edge s).en = s.en := by unfold edgeDetect; split <;> rfl
@[simp] theorem edgeDetect_cd (line : Nat) (edge : Edge) (s : State) : (edgeDetect line edge s).cd = s.cd := by unfold edgeDetect; split <;> rfl
@[simp] theorem edgeDetect_out (line : Nat) (edge : Edge) (s : State) : (edgeDetect line edge s).out = s.out := by unfold edgeDetect; split <;> rfl
@[simp] theorem edgeDetect_outInit (line : Nat) (edge : Edge) (s : State) : (edgeDetect line edge s).outInit = s.outInit := by unfold edgeDetect; split <;> rfl
@[simp] theorem edgeDetect_phase (line : Nat) (edge : Edge) (s : State) : (edgeDetect line edge s).phase = s.phase := by unfold edgeDetect; split <;> rfl
@[simp] theorem edgeDetect_t (line : Nat) (edge : Edge) (s : State) : (edgeDetect line edge s).t = s.t := by unfold edgeDetect; split <;> rfl
@[simp] theorem edgeDetect_response (line : Nat) (edge : Edge) (s : State) : (edgeDetect line edge s).response = s.response := by unfold edgeDetect; split <;> rfl
@[simp] theorem edgeDetect_inputs (line : Nat) (edge : Edge) (s : State) : (edgeDetect line edge s).inputs = s.inputs := by unfold edgeDetect; split <;> rfl
@[simp] theorem edgeDetect_drawn (line : Nat) (edge : Edge) (s : State) : (edgeDetect line edge s).drawn = s.drawn := by unfold edgeDetect; split <;> rfl

@[simp] theorem applyHalfPeriod_cfg (s : State) (j h : Nat) : (applyHalfPeriod s j h).cfg = s.cfg := by unfold applyHalfPeriod; split; rfl; split <;> rfl
@[simp] theorem applyHalfPeriod_cnt (s : State) (j h : Nat) : (applyHalfPeriod s j h).cnt = s.cnt := by unfold applyHalfPeriod; split; rfl; split <;> rfl
@[simp] theorem applyHalfPeriod_prev (s : State) (j h : Nat) : (applyHalfPeriod s j h).prev = s.prev := by unfold applyHalfPeriod; split; rfl; split <;> rfl
@[simp] theorem applyHalfPeriod_freq (s : State) (j h : Nat) : (applyHalfPeriod s j h).freq = s.freq := by unfold applyHalfPeriod; split; rfl; split <;> rfl
@[simp] theorem applyHalfPeriod_ovf (s : State) (j h : Nat) : (applyHalfPeriod s j h).ovf = s.ovf := by unfold applyHalfPeriod; split; rfl; split <;> rfl
@[simp] theorem applyHalfPeriod_lineMap (s : State) (j h : Nat) : (applyHalfPeriod s j h).lineMap = s.lineMap := by unfold applyHalfPeriod; split; rfl; split <;> rfl
@[simp] theorem applyHalfPeriod_irqEn (s : State) (j h : Nat) : (applyHalfPeriod s j h).irqEn = s.irqEn := by unfold applyHalfPeriod; split; rfl; split <;> rfl
@[simp] theorem applyHalfPeriod_irqPol (s : State) (j h : Nat) : (applyHalfPeriod s j h).irqPol = s.irqPol := by unfold applyHalfPeriod; split; rfl; split <;> rfl
@[simp] theorem applyHalfPeriod_pend (s : State) (j h : Nat) : (applyHalfPeriod s j h).pend = s.pend := by unfold applyHalfPeriod; split; rfl; split <;> rfl
@[simp] theorem applyHalfPeriod_tlast (s : State) (j h : Nat) : (applyHalfPeriod s j h).tlast = s.tlast := by unfold applyHalfPeriod; split; rfl; split <;> rfl
@[simp] theorem applyHalfPeriod_inInit (s : State) (j h : Nat) : (applyHalfPeriod s j h).inInit = s.inInit := by unfold applyHalfPeriod; split; rfl; split <;> rfl
@[simp] theorem applyHalfPeriod_hz (s : State) (j h : Nat) : (applyHalfPeriod s j h).hz = s.hz := by unfold applyHalfPeriod; split; rfl; split <;> rfl
@[simp] theorem applyHalfPeriod_bind (s : State) (j h : Nat) : (applyHalfPeriod s j h).bind = s.bind := by unfold applyHalfPeriod; split; rfl; split <;> rfl
@[simp] theorem applyHalfPeriod_en (s : State) (j h : Nat) : (applyHalfPeriod s j h).en = s.en := by unfold applyHalfPeriod; split; rfl; split <;> rfl
@[simp] theorem applyHalfPeriod_outInit (s : State) (j h : Nat) : (applyHalfPeriod s j h).outInit = s.outInit := by unfold applyHalfPeriod; split; rfl; split <;> rfl
@[simp] theorem applyHalfPeriod_phase (s : State) (j h : Nat) : (applyHalfPeriod s j h).phase = s.phase := by unfold applyHalfPeriod; split; rfl; split <;> rfl
@[simp] theorem applyHalfPeriod_t (s : State) (j h : Nat) : (applyHalfPeriod s j h).t = s.t := by unfold applyHalfPeriod; split; rfl; split <;> rfl
@[simp] theorem applyHalfPeriod_response (s : State) (j h : Nat) : (applyHalfPeriod s j h).response = s.response := by unfold applyHalfPeriod; split; rfl; split <;> rfl
@[simp] theorem applyHalfPeriod_inputs (s : State) (j h : Nat) : (applyHalfPeriod s j h).inputs = s.inputs := by unfold applyHalfPeriod; split; rfl; split <;> rfl
@[simp] theorem applyHalfPeriod_drawn (s : State) (j h : Nat) : (applyHalfPeriod s j h).drawn = s.drawn := by unfold applyHalfPeriod; split; rfl; split <;> rfl

@[simp] theorem pollAdvance_cfg (s : State) (snap : List Nat) : (pollAdvance s snap).cfg = s.cfg := by unfold pollAdvance; split <;> rfl
@[simp] theorem pollAdvance_cnt (s : State) (snap : List Nat) : (pollAdvance s snap).cnt = s.cnt := by unfold pollAdvance; split <;> rfl
@[simp] theorem pollAdvance_prev (s : State) (snap : List Nat) : (pollAdvance s snap).prev = s.prev := by unfold pollAdvance; split <;> rfl
@[simp] theorem pollAdvance_freq (s : State) (snap : List Nat) : (pollAdvance s snap).freq = s.freq := by unfold pollAdvance; split <;> rfl
@[simp] theorem pollAdvance_ovf (s : State) (snap : List Nat) : (pollAdvance s snap).ovf = s.ovf := by unfold pollAdvance; split <;> rfl
@[simp] theorem pollAdvance_lineMap (s : State) (snap : List Nat) : (pollAdvance s snap).lineMap = s.lineMap := by unfold pollAdvance; split <;> rfl
@[simp] theorem pollAdvance_irqEn (s : State) (snap : List Nat) : (pollAdvance s snap).irqEn = s.irqEn := by unfold pollAdvance; split <;> rfl
@[simp] theorem pollAdvance_irqPol (s : State) (snap : List Nat) : (pollAdvance s snap).irqPol = s.irqPol := by unfold pollAdvance; split <;> rfl
@[simp] theorem pollAdvance_pend (s : State) (snap : List Nat) : (pollAdvance s snap).pend = s.pend := by unfold pollAdvance; split <;> rfl
@[simp] theorem pollAdvance_tlast (s : State) (snap : List Nat) : (pollAdvance s snap).tlast = s.tlast := by unfold pollAdvance; split <;> rfl
@[simp] theorem pollAdvance_inInit (s : State) (snap : List Nat) : (pollAdvance s snap).inInit = s.inInit := by unfold pollAdvance; split <;> rfl
@[simp] theorem pollAdvance_hz (s : State) (snap : List Nat) : (pollAdvance s snap).hz = s.hz := by unfold pollAdvance; split <;> rfl
@[simp] theorem pollAdvance_hp (s : State) (snap : List Nat) : (pollAdvance s snap).hp = s.hp := by unfold pollAdvance; split <;> rfl
@[simp] theorem pollAdvance_bind (s : State) (snap : List Nat) : (pollAdvance s snap).bind = s.bind := by unfold pollAdvance; split <;> rfl
@[simp] theorem pollAdvance_en (s : State) (snap : List Nat) : (pollAdvance s snap).en = s.en := by unfold pollAdvance; split <;> rfl
@[simp] theorem pollAdvance_cd (s : State) (snap : List Nat) : (pollAdvance s snap).cd = s.cd := by unfold pollAdvance; split <;> rfl
@[simp] theorem pollAdvance_out (s : State) (snap : List Nat) : (pollAdvance s snap).out = s.out := by unfold pollAdvance; split <;> rfl
@[simp] theorem pollAdvance_outInit (s : State) (snap : List Nat) : (pollAdvance s snap).outInit = s.outInit := by unfold pollAdvance; split <;> rfl
@[simp] theorem pollAdvance_t (s : State) (snap : List Nat) : (pollAdvance s snap).t = s.t := by unfold pollAdvance; split <;> rfl
@[simp] theorem pollAdvance_response (s : State) (snap : List Nat) : (pollAdvance s snap).response = s.response := by unfold pollAdvance; split <;> rfl
@[simp] theorem pollAdvance_inputs (s : State) (snap : List Nat) : (pollAdvance s snap).inputs = s.inputs := by unfold pollAdvance; split <;> rfl
@[simp] theorem pollAdvance_drawn (s : State) (snap : List Nat) : (pollAdvance s snap).drawn = s.drawn := by unfold pollAdvance; split <;> rfl

end Sys2Proof.Machine
end

