-- ==== Sys2Proof/Laws/Ops.lean ====
section
/-!
SUPPORT. The spec lemmas of the shared operations: indexed reads and writes, answering a command, the schedule, and the schedule's
head in a step. Later proofs cite these and do not unfold the operations.
-/

namespace Sys2Proof.Machine

/-! ### Indexed reads and writes -/

@[simp] theorem length_tabulate {α : Type} (n : Nat) (f : Nat → α) : (tabulate n f).length = n := by
  simp [tabulate]

@[simp] theorem readAt_tabulate {α : Type} (d : α) (n : Nat) (f : Nat → α) (i : Nat) :
    readAt d (tabulate n f) i = if i < n then f i else d := by
  by_cases h : i < n <;> simp [readAt, tabulate, List.getD_eq_getElem?_getD, h]

theorem mem_tabulate {α : Type} (n : Nat) (f : Nat → α) (x : α) :
    x ∈ tabulate n f ↔ ∃ i, i < n ∧ f i = x := by
  simp [tabulate]

@[simp] theorem readAt_replicate {α : Type} (d x : α) (n i : Nat) :
    readAt d (List.replicate n x) i = if i < n then x else d := by
  by_cases h : i < n <;> simp [readAt, List.getD_eq_getElem?_getD, h]

theorem readAt_of_length_le {α : Type} (d : α) (xs : List α) (i : Nat) (h : xs.length ≤ i) :
    readAt d xs i = d := by
  simp [readAt, List.getD_eq_getElem?_getD, h]

theorem readAt_of_lt {α : Type} (d : α) (xs : List α) (i : Nat) (h : i < xs.length) :
    readAt d xs i = xs[i] := by
  simp [readAt, List.getD_eq_getElem?_getD, h]

theorem readAt_mem {α : Type} (d : α) (xs : List α) (i : Nat) (h : i < xs.length) :
    readAt d xs i ∈ xs := by
  rw [readAt_of_lt d xs i h]; exact List.getElem_mem h

theorem readAt_set {α : Type} (d : α) (xs : List α) (i k : Nat) (x : α) :
    readAt d (xs.set i x) k = if i = k ∧ k < xs.length then x else readAt d xs k := by
  simp only [readAt, List.getD_eq_getElem?_getD, List.getElem?_set]
  by_cases hik : i = k
  · subst hik
    by_cases hk : i < xs.length <;> simp [hk]
  · simp [hik]

theorem readAt_modify {α : Type} (d : α) (xs : List α) (f : α → α) (i k : Nat) :
    readAt d (xs.modify i f) k = if i = k ∧ k < xs.length then f (readAt d xs k) else readAt d xs k := by
  simp only [readAt, List.getD_eq_getElem?_getD, List.getElem?_modify]
  by_cases hik : i = k <;> by_cases hk : k < xs.length <;> simp_all

/-- Two arrays of one length that read alike everywhere are the same. -/
theorem ext_readAt {α : Type} (d : α) (xs ys : List α) (hl : xs.length = ys.length)
    (h : ∀ i, i < xs.length → readAt d xs i = readAt d ys i) : xs = ys := by
  apply List.ext_getElem hl
  intro i h1 h2
  have := h i h1
  rwa [readAt_of_lt d xs i h1, readAt_of_lt d ys i h2] at this

/-- An array of length `n` is the table of its own reads. -/
theorem tabulate_readAt {α : Type} (d : α) (xs : List α) (n : Nat) (h : xs.length = n) :
    tabulate n (readAt d xs) = xs := by
  apply ext_readAt d
  · simp [h]
  · intro i hi; simp only [length_tabulate] at hi; simp [hi]

/-- A write of the value an array already holds changes nothing. -/
theorem set_readAt {α : Type} (d : α) (xs : List α) (i : Nat) (x : α)
    (h : i < xs.length → readAt d xs i = x) : xs.set i x = xs := by
  apply ext_readAt d
  · simp
  · intro k hk
    rw [readAt_set]
    split
    · next hc => obtain ⟨rfl, hk'⟩ := hc; exact (h hk').symm
    · rfl

/-! ### Clock, map, responses -/

@[simp] theorem now_eq (s : State) : s.now = s.t % 2 ^ s.cfg.tw := rfl

theorem mappedChannel_of_lt (s : State) (line : Nat) (h : line < s.cfg.l) :
    mappedChannel s line = readAt none s.lineMap line := by simp [mappedChannel, h]

theorem mappedChannel_of_le (s : State) (line : Nat) (h : s.cfg.l ≤ line) : mappedChannel s line = none := by
  simp [mappedChannel, Nat.not_lt.mpr h]

/-- `raise` answers a next state in which only the response is new. -/
theorem raise_eq (s : State) (status : Status) :
    raise s status = .next { s with response := some { status := status, result := 0 } } := rfl

/-- `succeed` answers a next state in which only the response is new. -/
theorem succeed_eq (s : State) (r : Word) :
    succeed s r = .next { s with response := some { status := .ok, result := r } } := rfl

/-! ### The schedule -/

theorem withEvent_of_cons (s : State) (e : Event) (rest : List Event) (h : s.inputs = e :: rest) :
    s.withEvent = s := by simp [State.withEvent, h]

/-- A used-up schedule is refilled with one free event and nothing else changes. -/
theorem withEvent_of_nil (s : State) (h : s.inputs = []) :
    s.withEvent = { s with inputs := [Config.freeEvent s.drawn], drawn := s.drawn + 1 } := by
  simp [State.withEvent, h]

/-- What a step does with the event at the head of the schedule. -/
theorem step_of_cons (s : State) (e : Event) (rest : List Event) (h : s.inputs = e :: rest) :
    step s = agentStep e s := by
  simp [step, machineStep, withEvent_of_cons s e rest h, headStep, h]

/-- What a step does when the schedule is used up: the free event's step. -/
theorem step_of_nil (s : State) (h : s.inputs = []) :
    step s = agentStep (Config.freeEvent s.drawn) s.withEvent := by
  simp [step, machineStep, withEvent_of_nil s h, headStep]

/-- Every step is the step of some event at the head of the schedule, scheduled or free. -/
theorem step_cases (s : State) : ∃ e rest, s.withEvent.inputs = e :: rest ∧ step s = agentStep e s.withEvent := by
  cases h : s.inputs with
  | nil => exact ⟨_, [], by simp [withEvent_of_nil s h], step_of_nil s h⟩
  | cons e rest =>
    exact ⟨e, rest, by rw [withEvent_of_cons s e rest h, h], by
      rw [withEvent_of_cons s e rest h]; exact step_of_cons s e rest h⟩

theorem popped_of_cons (s : State) (e : Event) (rest : List Event) (h : s.inputs = e :: rest) :
    s.popped = { s with inputs := rest } := by simp [State.popped, h]

/-- What the schedule bookkeeping leaves alone. -/
theorem withEvent_frame (s : State) : s.withEvent = { s with inputs := s.withEvent.inputs, drawn := s.withEvent.drawn } := by
  unfold State.withEvent; split <;> rfl

end Sys2Proof.Machine
end

