-- ==== Sys2Proof/Laws/Exec.lean ====
section
/-!
SUPPORT. What each meaning answers when its checks pass, the shared setup loop, and what a run of ticks leaves alone. Proofs about an
instruction cite these and do not unfold the meaning.
-/

namespace Sys2Proof.Machine

/-! ### Bounds of the elements of an array -/

theorem readAt_lt {xs : List Nat} {bound : Nat} (h : ∀ x ∈ xs, x < bound) (hb : 0 < bound) (i : Nat) :
    readAt 0 xs i < bound := by
  by_cases hi : i < xs.length
  · exact h _ (readAt_mem 0 xs i hi)
  · rwa [readAt_of_length_le 0 xs i (by omega)]

theorem mem_modify_lt {xs : List Nat} {f : Nat → Nat} {i bound : Nat} (h : ∀ x ∈ xs, x < bound)
    (hf : ∀ x, f x < bound) : ∀ x ∈ xs.modify i f, x < bound := by
  intro x hx
  obtain ⟨k, hk, rfl⟩ := List.getElem_of_mem hx
  rw [List.getElem_modify]
  split_ifs
  · exact hf _
  · exact h _ (List.getElem_mem _)

theorem mem_set_lt {xs : List Nat} {i v bound : Nat} (h : ∀ x ∈ xs, x < bound) (hv : v < bound) :
    ∀ x ∈ xs.set i v, x < bound := by
  intro x hx
  rcases List.mem_or_eq_of_mem_set hx with hx | hx
  · exact h x hx
  · omega

/-! ### The setup loop of `INIT_IN` -/

/-- Writing `val i` at `place i` for every `i < n`, the places different and in range: the length stays, every place holds its value, and
nothing else changes. -/
theorem foldl_set {α : Type} (d : α) (place : Nat → Nat) (val : Nat → α) (n : Nat) (xs : List α)
    (hinj : ∀ i k, i < n → k < n → i ≠ k → place i ≠ place k) (hlt : ∀ i, i < n → place i < xs.length) :
    ((List.range n).foldl (fun a i => a.set (place i) (val i)) xs).length = xs.length ∧
    (∀ i, i < n → readAt d ((List.range n).foldl (fun a i => a.set (place i) (val i)) xs) (place i) = val i) ∧
    (∀ l, (∀ i, i < n → place i ≠ l) →
      readAt d ((List.range n).foldl (fun a i => a.set (place i) (val i)) xs) l = readAt d xs l) := by
  induction n with
  | zero => simp
  | succ n ih =>
    obtain ⟨h0, h1, h2⟩ := ih (fun i k hi hk => hinj i k (by omega) (by omega)) (fun i hi => hlt i (by omega))
    rw [List.range_succ, List.foldl_append]
    simp only [List.foldl_cons, List.foldl_nil, List.length_set]
    refine ⟨h0, ?_, ?_⟩
    · intro i hi
      rw [readAt_set, h0]
      by_cases hin : i = n
      · subst hin
        simp [hlt i (by omega)]
      · simp [hinj n i (by omega) (by omega) (Ne.symm hin)]
        exact h1 i (by omega)
    · intro l hl
      rw [readAt_set]
      simp [hl n (by omega)]
      exact h2 l (fun i hi => hl i (by omega))

/-- The loop keeps the length, whatever the places. -/
theorem length_foldl_set {α : Type} (place : Nat → Nat) (val : Nat → α) (n : Nat) (xs : List α) :
    ((List.range n).foldl (fun a i => a.set (place i) (val i)) xs).length = xs.length := by
  induction n with
  | zero => rfl
  | succ n ih =>
    rw [List.range_succ, List.foldl_append]
    simp [ih]

/-! ### The meanings -/

/-- `ON_EDGE` always completes and writes `CNT` only. -/
theorem exec_onEdge_eq (line : Nat) (s : State) :
    exec (.onEdge line) s = .next { s with
      cnt := match mappedChannel s line with
        | none => s.cnt
        | some c => s.cnt.modify c fun x => (x + 1) % 2 ^ s.cfg.cw } := by
  simp only [exec, execOnEdge]
  cases mappedChannel s line <;> rfl

theorem exec_initIn_eq (s : State) (h : s.inInit = false) (hok : inputSetupOk s.cfg = true) :
    exec .initIn s = .next ((setupInputs s).respond .ok 0) := by
  simp [exec, execInitIn, h, hok, succeed]

theorem exec_initOut_eq (s : State) (h : s.outInit = false) (hok : outputSetupOk s.cfg = true) :
    exec .initOut s = .next ((setupOutputs s).respond .ok 0) := by
  simp [exec, execInitOut, h, hok, succeed]

theorem exec_setFreq_eq (s : State) (j : Nat) (hz : Word) (hj : j < s.cfg.m) (hv : hzValid hz = true)
    (ho : s.outInit = true) :
    exec (.setFreq j hz) s = .next
      ((applyHalfPeriod { s with hz := s.hz.set j hz } j (halfPeriod s.cfg hz)).respond .ok
        (BitVec.ofNat 32 (halfPeriod s.cfg hz))) := by
  simp [exec, execSetFreq, outputIndexOk, hj, hv, ho, succeed]

theorem pollCommit_of_throttled (s : State) (snap : List Nat) (ts : Nat)
    (h : elapsedUs s.cfg s.tlast ts < windowUs) :
    pollCommit s snap ts = .next (State.respond { s with phase := .idle } .ok 0) := if_pos h

theorem pollCommit_of_window (s : State) (snap : List Nat) (ts : Nat)
    (h : windowUs ≤ elapsedUs s.cfg s.tlast ts) :
    pollCommit s snap ts = .next
      (State.respond { compute s snap ts with phase := .idle } .ok (pollResult (anyNegativeDelta s snap))) :=
  if_neg (Nat.not_lt.mpr h)

/-- What no operation of the host writes: the parameters, the counters, the requests, the clock and the schedule. -/
theorem exec_host_frame (i : Instr) (s t : State) (hi : ∀ l, i ≠ .onEdge l) (h : exec i s = .next t) :
    t.cfg = s.cfg ∧ t.cnt = s.cnt ∧ t.pend = s.pend ∧ t.t = s.t ∧ t.inputs = s.inputs ∧ t.drawn = s.drawn := by
  cases i <;> simp only [exec] at h
  · exact absurd rfl (hi _)
  · unfold execInitIn raise succeed at h; split_ifs at h <;> cases h <;> simp
  · unfold execInitOut raise succeed at h; split_ifs at h <;> cases h <;> simp
  · unfold execPoll at h
    split at h
    · unfold raise at h; split_ifs at h <;> cases h <;> simp
    · cases h; simp
    · unfold pollCommit succeed at h; split_ifs at h <;> cases h <;> simp
  · unfold execSetFreq raise succeed at h; split_ifs at h <;> cases h <;> simp
  · unfold execGetFreq raise succeed at h; split_ifs at h <;> cases h <;> simp
  · unfold execGetFlags raise succeed at h; split_ifs at h <;> cases h <;> simp

/-- A micro-step of `POLL` neither reads nor writes the schedule. -/
theorem exec_poll_withInputs (s t : State) (inputs : List Event) (h : exec .poll s = .next t) :
    exec .poll { s with inputs := inputs } = .next { t with inputs := inputs } := by
  simp only [exec, execPoll] at h ⊢
  cases hp : s.phase with
  | idle =>
    simp only [hp, raise] at h ⊢
    split_ifs at h ⊢ <;> cases h
    · simp [State.respond, hp]
    · simp only [pollAdvance, atomicLoad]
      split_ifs <;> rfl
  | loading snap =>
    simp only [hp] at h ⊢
    cases h
    simp only [pollAdvance, atomicLoad]
    split_ifs <;> rfl
  | sampled snap ts =>
    simp only [hp, pollCommit, succeed] at h ⊢
    split_ifs at h ⊢ <;> cases h <;> rfl

/-- No command word decodes to `ON_EDGE` (R65). -/
theorem decodeCommand_ne_onEdge (w : Command) (l : Nat) : decodeCommand w ≠ .instr (.onEdge l) := by
  simp only [decodeCommand, decodeFields, Decoded.ifZero]
  split_ifs <;> simp

/-! ### Ticks -/

/-- What a tick does to one output channel. -/
theorem tick_at (s : State) (j : Nat) (hj : j < s.cfg.m) :
    readAt 0 (tick s).cd j = tickedCd s j ∧ readAt false (tick s).out j = tickedOut s j := by
  simp [hj]

/-- Ticks write the clock, `CD` and `OUT` only. -/
theorem ticks_frame (k : Nat) : ∀ s : State,
    ticks k s = { s with t := s.t + k, cd := (ticks k s).cd, out := (ticks k s).out } := by
  induction k with
  | zero => intro s; simp [ticks]
  | succ k ih =>
    intro s
    simp only [ticks]
    rw [ih (tick s)]
    simp [tick]
    omega

theorem ticks_add (a b : Nat) : ∀ s : State, ticks (a + b) s = ticks b (ticks a s) := by
  induction a with
  | zero => intro s; simp [ticks]
  | succ a ih =>
    intro s
    rw [show a + 1 + b = a + b + 1 by omega]
    simp only [ticks]
    rw [ih]

end Sys2Proof.Machine
end

