-- ==== Sys2Proof/Laws/Joined.lean ====
section
/-!
SUPPORT. What each operation of the consumer and of the joined machine answers. Proofs about them cite these and do not unfold the
operation.
-/

namespace Sys2Proof.Machine

variable {R : Type}

/-- A name that is the lossy peak filter's and not the identity's resolves to its identifier. -/
theorem identifierForName_of_lossyPeak (reg : Registry) (name : Text) (h : sameName name identityName = false)
    (hl : sameName name reg.lossyPeakName = true) : identifierForName reg name = lossyPeakId := by
  simp [identifierForName, filterNames, List.findIdx_cons, h, hl, lossyPeakId]

/-- The parser starts both times at the clock value it is given. -/
theorem parseArguments_times (num : NumberType R) (reg : Registry) (identifier : Nat) (text : Text) (now : Nat)
    (st : LossyPeak R) (h : parseArguments num reg identifier text now = .state st) :
    st.tLast = now ∧ st.tPeak = now ∧ st.mode = .holding ∧ st.peak = num.zero := by
  unfold parseArguments parseLossyPeak at h
  split_ifs at h
  split at h
  · cases h
  · split at h <;> cases h
    exact ⟨rfl, rfl, rfl, rfl⟩

/-- Decaying writes the mode and the peak only. -/
theorem decayBy_frame (num : NumberType R) (st : LossyPeak R) (x d : R) :
    decayBy num st x d = { st with mode := .decaying, peak := (decayBy num st x d).peak } := by
  unfold decayBy
  simp only
  split_ifs <;> rfl

/-- A sample below the peak writes the mode and the peak only. -/
theorem belowPeak_frame (num : NumberType R) (c : Config) (st : LossyPeak R) (x : R) (t : Nat) :
    belowPeak num c st x t =
      { st with mode := (belowPeak num c st x t).mode, peak := (belowPeak num c st x t).peak } := by
  unfold belowPeak
  simp only
  split
  · rw [decayBy_frame]
  · split_ifs
    · rw [decayBy_frame]
    · rw [decayBy_frame]
    · rfl

/-- The arguments stay, the last update is now, and the peak was set now or when it was. -/
theorem applyLossyPeak_times (num : NumberType R) (c : Config) (st : LossyPeak R) (x : R) (t : Nat) :
    (applyLossyPeak num c st x t).decay = st.decay ∧ (applyLossyPeak num c st x t).delay = st.delay ∧
    (applyLossyPeak num c st x t).tLast = t ∧
    ((applyLossyPeak num c st x t).tPeak = t ∨ (applyLossyPeak num c st x t).tPeak = st.tPeak) := by
  unfold applyLossyPeak
  split_ifs
  · exact ⟨rfl, rfl, rfl, .inl rfl⟩
  · rw [belowPeak_frame]
    exact ⟨rfl, rfl, rfl, .inr rfl⟩

/-- `GET_FREQ` of an existing channel, as the joined machine takes it. -/
theorem readFrequency_of_lt (s : State) (i : Nat) (h : i < s.cfg.n) :
    readFrequency s i =
      some ({ s with response := some { status := .ok, result := readAt 0 s.freq i } }, readAt 0 s.freq i) := by
  simp [readFrequency, exec, execGetFreq, inputIndexOk, h, succeed, State.respond]

theorem readFrequency_of_le (s : State) (i : Nat) (h : s.cfg.n ≤ i) : readFrequency s i = none := by
  simp [readFrequency, exec, execGetFreq, inputIndexOk, Nat.not_lt.mpr h, raise, State.respond]

@[simp] theorem configureChannel_block (num : NumberType R) (reg : Registry) (j : Joined R) (i : Nat) (name text : Text) :
    (configureChannel num reg j i name text).1.block = j.block := rfl
@[simp] theorem configureChannel_due (num : NumberType R) (reg : Registry) (j : Joined R) (i : Nat) (name text : Text) :
    (configureChannel num reg j i name text).1.due = j.due := rfl
@[simp] theorem configureChannel_filtered (num : NumberType R) (reg : Registry) (j : Joined R) (i : Nat)
    (name text : Text) : (configureChannel num reg j i name text).1.filtered = j.filtered := rfl
@[simp] theorem configureChannel_slots (num : NumberType R) (reg : Registry) (j : Joined R) (i : Nat)
    (name text : Text) :
    (configureChannel num reg j i name text).1.slots =
      j.slots.set i (slotOfParsed (parsedConfig num reg name text j.block)) := rfl
@[simp] theorem configureChannel_report (num : NumberType R) (reg : Registry) (j : Joined R) (i : Nat)
    (name text : Text) :
    (configureChannel num reg j i name text).2 = reportOfParsed (parsedConfig num reg name text j.block) := rfl

/-- A block step as the joined machine takes it: the filters and the filtered samples stay. -/
theorem joinedBlockStep_of_next (j : Joined R) (t : State) (h : step j.block = .next t) :
    joinedBlockStep j = { j with
      block := t
      due :=
        if pollComputed j.block t then List.replicate j.block.cfg.n true
        else if resetNext j.block then List.replicate j.block.cfg.n false
        else j.due } := by
  simp only [joinedBlockStep, h]

/-- A due sample of an existing channel, with no command in progress. -/
theorem takeSample_of_due (num : NumberType R) (j : Joined R) (i : Nat) (hp : j.block.phase = .idle)
    (hd : readAt false j.due i = true) (hi : i < j.block.cfg.n) :
    takeSample num j i =
      { block := { j.block with response := some { status := .ok, result := readAt 0 j.block.freq i } }
        slots := j.slots.set i (applyFilter num j.block.cfg (readAt .identity j.slots i)
          (num.ofPattern (readAt 0 j.block.freq i)) j.block.now).1
        due := j.due.set i false
        filtered := j.filtered.set i (some (applyFilter num j.block.cfg (readAt .identity j.slots i)
          (num.ofPattern (readAt 0 j.block.freq i)) j.block.now).2) } := by
  unfold takeSample
  rw [if_pos ⟨hp, hd⟩, readFrequency_of_lt _ _ hi]
  rfl

end Sys2Proof.Machine
end

