-- ==== Sys2Proof/Laws/PerInstr.lean ====
section
/-!
SUPPORT. One claim about every operation as syntax: its word belongs to its port, and a command selects its own row of the opcode map
(spec/30_encoding.md R55, R60, R65).
-/

namespace Sys2Proof.Laws.RowMatch

/-- The encoding of a well-formed operation: an edge request where the operation has no row, else a command that selects that row and no
other. -/
def Statement (i : Instr) : Prop :=
  i.wellFormed = true →
    match i.rowIndex, encode i with
    | none, .edge request => i = .onEdge request.toNat
    | some k, .command w => ∀ (n : Nat) (r : OpcodeRow), opcodeRows[n]? = some r → (r.selects w = true ↔ n = k)
    | _, _ => False

theorem onEdge (line : Nat) : Statement (.onEdge line) := by
  intro h
  simp only [Instr.wellFormed, decide_eq_true_eq] at h
  simp [Instr.rowIndex, encode, Nat.mod_eq_of_lt h]

theorem initIn : Statement .initIn := by
  intro _
  simp only [Instr.rowIndex, encode]
  rw [forall_opcodeRows]
  decide

theorem initOut : Statement .initOut := by
  intro _
  simp only [Instr.rowIndex, encode]
  rw [forall_opcodeRows]
  decide

theorem poll : Statement .poll := by
  intro _
  simp only [Instr.rowIndex, encode]
  rw [forall_opcodeRows]
  decide

theorem setFreq (channel : Nat) (hz : Word) : Statement (.setFreq channel hz) := by
  intro _
  simp only [Instr.rowIndex, encode]
  rw [forall_opcodeRows]
  simp only [OpcodeRow.selects_iff, encodeFields_opc, encodeFields_idx, encodeFields_data, encodeFields_rsv]
  simp [Command.opc, Command.idx, Command.data, Command.rsv]

theorem getFreq (channel : Nat) : Statement (.getFreq channel) := by
  intro _
  simp only [Instr.rowIndex, encode]
  rw [forall_opcodeRows]
  simp only [OpcodeRow.selects_iff, encodeFields_opc, encodeFields_idx, encodeFields_data, encodeFields_rsv]
  simp [Command.opc, Command.idx, Command.data, Command.rsv]

theorem getFlags (channel : Nat) : Statement (.getFlags channel) := by
  intro _
  simp only [Instr.rowIndex, encode]
  rw [forall_opcodeRows]
  simp only [OpcodeRow.selects_iff, encodeFields_opc, encodeFields_idx, encodeFields_data, encodeFields_rsv]
  simp [Command.opc, Command.idx, Command.data, Command.rsv]

end Sys2Proof.Laws.RowMatch
end

