-- ==== Sys2Proof/Laws/Rounding.lean ====
section
/-!
SUPPORT. `FreqRound` in exact rational numbers: the quotient in units of `2^-149`, the two patterns around it, and when the
upper one is taken.
-/

namespace Sys2Proof.Machine

/-- `num / den` in units of `2^-149`. -/
def unitQuotient (num den : Nat) : ℚ := (num : ℚ) * 2 ^ 149 / den

theorem le_unitQuotient_iff (m num den : Nat) (h : 0 < den) :
    (m : ℚ) ≤ unitQuotient num den ↔ m * den ≤ num * 2 ^ 149 := by
  unfold unitQuotient
  rw [le_div_iff₀ (by exact_mod_cast h)]
  norm_cast

theorem unitQuotient_le_iff (num den num' den' : Nat) :
    unitQuotient num den ≤ unitQuotient num' den' ↔ (num : ℚ) / den ≤ (num' : ℚ) / den' := by
  unfold unitQuotient
  rw [mul_div_right_comm, mul_div_right_comm]
  exact mul_le_mul_iff_left₀ (by positivity)

/-- The pattern below the quotient. -/
theorem magnitude_floorPattern_le (num den : Nat) (h : 0 < den) :
    (magnitude (floorPattern num den) : ℚ) ≤ unitQuotient num den :=
  (le_unitQuotient_iff _ _ _ h).2 (floorPattern_spec num den).1.2

/-- The next pattern is above the quotient, unless the finite patterns end there. -/
theorem unitQuotient_lt_magnitude (num den : Nat) (h : 0 < den) (hm : floorPattern num den < maxFinite) :
    unitQuotient num den < magnitude (floorPattern num den + 1) := by
  have h1 := lt_magnitude_succ_floorPattern num den hm
  by_contra hc
  have h2 := (le_unitQuotient_iff _ _ _ h).1 (not_lt.mp hc)
  omega

/-- Every finite pattern at or below the quotient is at or below `floorPattern`. -/
theorem le_floorPattern (num den c : Nat) (h : 0 < den) (hc : c ≤ maxFinite)
    (hq : (magnitude c : ℚ) ≤ unitQuotient num den) : c ≤ floorPattern num den :=
  (floorPattern_spec num den).2 c hc ((le_unitQuotient_iff _ _ _ h).1 hq)

/-- When the pattern above is taken, over the rationals. -/
theorem roundsUp_iff (num den b : Nat) (h : 0 < den) : roundsUp num den b = true ↔
    (magnitude b + magnitude (b + 1) : ℚ) < 2 * unitQuotient num den ∨
      (2 * unitQuotient num den = magnitude b + magnitude (b + 1) ∧ b % 2 = 1) := by
  have hd : (0 : ℚ) < den := by exact_mod_cast h
  have hq : unitQuotient num den * den = num * 2 ^ 149 := by unfold unitQuotient; field_simp
  simp only [roundsUp, Bool.or_eq_true, Bool.and_eq_true, decide_eq_true_eq]
  have e1 : magnitude b * den + magnitude (b + 1) * den < 2 * (num * 2 ^ 149) ↔
      (magnitude b + magnitude (b + 1) : ℚ) < 2 * unitQuotient num den := by
    rw [← mul_lt_mul_iff_left₀ hd, mul_assoc, hq, ← Nat.cast_lt (α := ℚ)]
    push_cast
    constructor <;> intro h <;> nlinarith
  have e2 : 2 * (num * 2 ^ 149) = magnitude b * den + magnitude (b + 1) * den ↔
      2 * unitQuotient num den = magnitude b + magnitude (b + 1) := by
    rw [← mul_left_inj' hd.ne', mul_assoc, hq, ← Nat.cast_inj (R := ℚ)]
    push_cast
    constructor <;> intro h <;> linarith
  rw [e1, e2]

/-- The number of the pattern `nearestEvenRound` gives. -/
theorem toNat_nearestEvenRound (num den : Nat) : (nearestEvenRound num den).toNat =
    if floorPattern num den < maxFinite ∧ roundsUp num den (floorPattern num den) = true then
      floorPattern num den + 1
    else floorPattern num den := by
  have h := (floorPattern_spec num den).1.1
  have hm : maxFinite < 2 ^ 32 := by decide
  unfold nearestEvenRound
  simp only [Bool.and_eq_true, decide_eq_true_eq, BitVec.toNat_ofNat]
  apply Nat.mod_eq_of_lt
  split_ifs <;> omega

/-- Whichever rounding the device has, it is the default's pattern or an admissible function of the quotient. -/
theorem freqRound_cases (mode : Rounding) : (∀ num den, freqRound mode num den = nearestEvenRound num den) ∨
    ∃ round, AdmissibleRound round ∧ ∀ num den : Nat, freqRound mode num den = round ((num : ℚ) / den) := by
  cases mode with
  | nearestEven => exact .inl fun _ _ => rfl
  | device =>
    simp only [freqRound]
    cases Config.deviceRound with
    | nearestEven => exact .inl fun _ _ => rfl
    | admissible round h => exact .inr ⟨round, h, fun _ _ => rfl⟩

/-- The value of a finite non-negative pattern is its magnitude. -/
theorem val32_of_finiteNonneg (b : Word) (h : FiniteNonneg b) : val32 b = (magnitude b.toNat : ℚ) / 2 ^ 149 := by
  have hm : maxFinite < 2 ^ 31 := by decide
  unfold FiniteNonneg at h
  have h31 : b.toNat < 2 ^ 31 := by omega
  rw [val32_eq, signBit_eq]
  unfold unsignedPattern
  rw [Nat.mod_eq_of_lt h31, decide_eq_false (by omega)]
  simp

end Sys2Proof.Machine
end

