-- ==== Sys2Proof/Tests/Slice0.lean ====
section
/-!
SUPPORT. The package's own tests: the ill-formed terms, the words of spec/95_test_vectors.md part 2.1 and words written out bit by bit
from spec/30_encoding.md, the vectors of parts 2.2 to 2.5, and for every obligation with hypotheses a named witness that meets them.
Every expected result is the spec's.
-/

namespace Sys2Proof.Tests

open Sys2Proof Sys2Proof.Machine

/-- The state an answer leads to; `s` where it stops. -/
def nextOf (r : Result) (s : State) : State :=
  match r with
  | .next t => t
  | .fault _ => s
  | .refused _ => s

/-- The status and result of the response after an operation. -/
def answer (r : Result) : Option (Status × Word) :=
  match r with
  | .next t => t.response.map fun a => (a.status, a.result)
  | .fault _ => none
  | .refused _ => none

/-! ## Well-formedness: one ill-formed term for each check -/

theorem test_wellFormed_refuses :
    Instr.wellFormed (.onEdge 256) = false ∧ Instr.wellFormed (.setFreq 256 0) = false ∧
    Instr.wellFormed (.getFreq 256) = false ∧ Instr.wellFormed (.getFlags 256) = false := by decide

theorem test_config_wf : Config.reference.wf = true ∧
    { Config.reference with n := 0 }.wf = false ∧ { Config.reference with m := 257 }.wf = false ∧
    { Config.reference with l := 0 }.wf = false ∧ { Config.reference with lineOf := [2] }.wf = false ∧
    { Config.reference with pol := [] }.wf = false ∧ { Config.reference with cw := 0 }.wf = false ∧
    { Config.reference with tw := 0 }.wf = false ∧ { Config.reference with hpw := 33 }.wf = false := by decide

/-! ## Decoding: words written out from R56, R57 and R60 as `DATA ++ OPC ++ IDX ++ RSV` -/

/-- `LINE` is the whole byte (R56). -/
theorem test_decode_onEdge : decode (.edge 0b00000011) = .instr (.onEdge 3) ∧
    decode (.edge 0b11111111) = .instr (.onEdge 255) := by decide

theorem test_decode_initIn :
    decode (.command ((0 : BitVec 32) ++ 0b00000001#8 ++ 0b00000000#8 ++ (0 : BitVec 16))) = .instr .initIn := by decide

theorem test_decode_initOut :
    decode (.command ((0 : BitVec 32) ++ 0b00000010#8 ++ 0b00000000#8 ++ (0 : BitVec 16))) = .instr .initOut := by decide

theorem test_decode_poll :
    decode (.command ((0 : BitVec 32) ++ 0b00000011#8 ++ 0b00000000#8 ++ (0 : BitVec 16))) = .instr .poll := by decide

/-- `SET_FREQ 1, 100Hz`: sign 0, exponent 133, fraction 1.5625 - 1 (DV4). -/
theorem test_decode_setFreq :
    decode (.command (0b0#1 ++ 0b10000101#8 ++ 0b10010000000000000000000#23 ++ 0b00000100#8 ++ 0b00000001#8
      ++ (0 : BitVec 16))) = .instr (.setFreq 1 0x42C80000) := by decide

theorem test_decode_getFreq :
    decode (.command ((0 : BitVec 32) ++ 0b00000101#8 ++ 0b00000011#8 ++ (0 : BitVec 16))) = .instr (.getFreq 3) := by
  decide

theorem test_decode_getFlags :
    decode (.command ((0 : BitVec 32) ++ 0b00000110#8 ++ 0b11111111#8 ++ (0 : BitVec 16))) = .instr (.getFlags 255) := by
  decide

/-- DV8 to DV16, with the case of R61 each falls under. -/
theorem test_decode_illegal :
    [0x0000000000000000, 0x0000000007000000, 0x00000000FF000000, 0x0000000003000001, 0x0000000003010000,
      0x0000000103000000, 0x8000000005000000, 0x0000000001020000, 0xBF80000004098000].map decodeCommand =
    [.illegal .unknownOpcode, .illegal .unknownOpcode, .illegal .unknownOpcode, .illegal .reservedNotZero,
      .illegal .unusedNotZero, .illegal .unusedNotZero, .illegal .unusedNotZero, .illegal .unusedNotZero,
      .illegal .reservedNotZero] := by decide

/-- DV3 to DV7 and DV17 to DV20: the responses in the reset state. -/
theorem test_reset_responses :
    [0x0000000003000000, 0x42C8000004010000, 0x0000000005030000, 0x0000000005040000, 0x0000000006FF0000,
      0xBF80000004090000, 0xBF80000004010000, 0x7FC0000004010000, 0x7F80000004010000].map
        (fun w => answer (step (State.reset.withFetchWord 64 w))) =
    [some (.errNotInit, 0), some (.errNotInit, 0), some (.ok, 0), some (.errIndex, 0), some (.errIndex, 0),
      some (.errIndex, 0), some (.errRange, 0), some (.errRange, 0), some (.errRange, 0)] := by decide

/-- The response word is `STATUS ++ RESULT` (R58). -/
theorem test_response_word : Response.word { status := .errNotInit, result := 0xDEADBEEF } = 0x04DEADBEEF := by decide

/-! ## Edge counter vectors (part 2.2) -/

/-- V with `INIT_IN` done at `NOW = 5_000_000` (EV8). -/
def inputV : State := setupInputs (State.resetAt Config.reference 5000000)

/-- EV8: the map, the enables, the polarities and the window. -/
theorem test_initIn_v : answer (exec .initIn (State.resetAt Config.reference 5000000)) = some (.ok, 0) ∧
    inputV.lineMap = [none, none, some 0, some 1, some 2, some 3] ++ List.replicate 26 none ∧
    inputV.irqEn = [false, false, true, true, true, true] ++ List.replicate 26 false ∧
    inputV.irqPol = [.fall, .fall, .fall, .rise, .rise, .rise] ++ List.replicate 26 .fall ∧
    inputV.tlast = 5000000 ∧ inputV.inInit = true := by decide

/-- EV9 to EV11: a second call; a line twice; a line that does not exist. -/
theorem test_initIn_refused : answer (exec .initIn inputV) = some (.errAlreadyInit, 0) ∧
    answer (exec .initIn (State.resetAt { Config.reference with lineOf := [2, 3, 3, 5] } 0)) = some (.errConfig, 0) ∧
    answer (exec .initIn (State.resetAt { Config.reference with lineOf := [2, 3, 4, 32] } 0)) =
      some (.errConfig, 0) := by decide

/-- EV1 and EV2: one more; the wrap. -/
theorem test_onEdge_counts :
    (nextOf (exec (.onEdge 3) { inputV with cnt := [0, 41, 0, 0] }) inputV).cnt = [0, 42, 0, 0] ∧
    (nextOf (exec (.onEdge 2) { inputV with cnt := [0xFFFFFFFF, 0, 0, 0] }) inputV).cnt = [0, 0, 0, 0] := by decide

/-- EV6 and EV7: unmapped lines, and a line that does not exist. -/
theorem test_onEdge_unmapped : nextOf (exec (.onEdge 7) inputV) State.reset = inputV ∧
    nextOf (exec (.onEdge 31) inputV) State.reset = inputV ∧
    nextOf (exec (.onEdge 200) inputV) State.reset = inputV ∧
    nextOf (exec (.onEdge 2) State.reset) inputV = State.reset := by decide

/-- EV3, EV4 and EV5: requests of the configured direction of an enabled line only; they add up. -/
theorem test_transitions :
    (edgeDetect 3 .rise (edgeDetect 3 .rise (edgeDetect 3 .fall (edgeDetect 3 .rise inputV)))).pend =
      [0, 0, 0, 3] ++ List.replicate 28 0 ∧
    (edgeDetect 2 .rise inputV).pend = List.replicate 32 0 ∧
    (edgeDetect 2 .fall inputV).pend = [0, 0, 1] ++ List.replicate 29 0 ∧
    edgeDetect 7 .rise (edgeDetect 7 .fall inputV) = inputV := by decide

/-- EV3: `SERVE 3` with three requests pending. -/
theorem test_serve :
    (fun t => (t.pend.take 5, t.cnt))
      (nextOf (step { inputV with pend := [0, 0, 0, 3] ++ List.replicate 28 0, inputs := [.serve 3] }) inputV) =
    ([0, 0, 0, 2, 0], [0, 1, 0, 0]) := by decide

/-! ## Estimator vectors (part 2.3) -/

/-- The start of FV1 to FV5 with the clock sample `ts`. -/
def sampledV (ts : Nat) : State :=
  { inputV with cnt := [100, 250, 0, 0], phase := .sampled [100, 250, 0, 0] ts }

/-- FV2: one microsecond short, nothing moves. -/
theorem test_poll_throttled : exec .poll (sampledV 5999999) =
    .next { inputV with cnt := [100, 250, 0, 0], response := some { status := .ok, result := 0 } } := by rfl

/-- FV3: exactly one second. -/
theorem test_poll_computes :
    (fun t => (t.freq, t.ovf, t.prev, t.tlast, t.response)) (nextOf (exec .poll (sampledV 6000000)) inputV) =
    ([0x42C80000, 0x437A0000, 0, 0], [false, false, false, false], [100, 250, 0, 0], 6000000,
      some { status := .ok, result := 1 }) := by decide +kernel

/-- Channel 0 with baseline `base` and snapshot `now`, window open since 8 s, at the commit of a `POLL` sampled at `ts`. -/
def deltaV (base now ts : Nat) : State :=
  { inputV with tlast := 8000000, prev := [base, 0, 0, 0], phase := .sampled [now, 0, 0, 0] ts }

/-- FV6 and FV9: a negative delta gives 0 and the flag, `PREV` moves on, and the result says so. -/
theorem test_poll_negative :
    (fun t => (t.freq.take 1, t.ovf.take 1, t.prev.take 1, t.response))
      (nextOf (exec .poll (deltaV 0xFFFFFFF0 3 9300000)) inputV) =
    ([0], [true], [3], some { status := .ok, result := 3 }) ∧
    (fun t => (t.freq.take 1, t.ovf.take 1, t.prev.take 1, t.response))
      (nextOf (exec .poll (deltaV 500 499 9000000)) inputV) =
    ([0], [true], [499], some { status := .ok, result := 3 }) := by decide +kernel

/-- FV12 to FV15: the clock difference across a wrap. -/
theorem test_elapsed :
    elapsedUs Config.reference 0xFFFFFFFFFFF9E580 0x927C0 = 1000000 ∧
    elapsedUs Config.reference 0xFFFFFFFFFFF9E580 0x927BF = 999999 ∧
    elapsedUs Config.reference 0 0xFFFFFFFFFFFFFFFF = 2 ^ 64 - 1 ∧
    elapsedUs { Config.reference with tw := 32 } 0xFFFFFF00 0xF4140 = 1000000 := by decide +kernel

/-- The `FreqRound` table: exact, inexact, ties, and the two ends. -/
theorem test_freqRound :
    ([(0, 1000000), (1, 1000000), (100, 1000000), (21, 2000000), (165, 1300000), (1, 3000000), (3, 7000000),
      (1, 1000001), (7, 1000001), (999999, 1000000), (16777216, 1000000), (16777217, 1000000), (16777219, 1000000),
      (4294967295, 1000000), (1, 10 ^ 12), (1, 2 ^ 64 - 1)] : List (Nat × Nat)).map
        (fun p => freqRound .nearestEven (p.1 * 1000000) p.2) =
    [0, 0x3F800000, 0x42C80000, 0x41280000, 0x42FDD89E, 0x3EAAAAAB, 0x3EDB6DB7,
      0x3F7FFFEF, 0x40DFFFF1, 0x497423F0, 0x4B800000, 0x4B800000, 0x4B800002,
      0x4F800000, 0x358637BD, 0x29742400] := by decide +kernel

/-- After FV6 and FV7: the flag is read and not cleared; an existing and a missing channel. -/
theorem test_getFlags : answer (exec (.getFlags 0) { inputV with ovf := [true, false, false, false] }) = some (.ok, 1) ∧
    answer (exec (.getFlags 1) { inputV with ovf := [true, false, false, false] }) = some (.ok, 0) ∧
    answer (exec (.getFlags 4) inputV) = some (.errIndex, 0) := by decide

/-- P1: the stored pattern comes back. -/
theorem test_getFreq : answer (exec (.getFreq 1) { inputV with freq := [0x42C80000, 0x437A0000, 0, 0] }) =
      some (.ok, 0x437A0000) ∧
    answer (exec (.getFreq 4) inputV) = some (.errIndex, 0) := by decide

/-! ## Synthesizer vectors (part 2.4) -/

/-- V with `INIT_OUT` done. -/
def outputV : State := setupOutputs State.reset

/-- `INIT_OUT` in the reset state, a second time, and with too few blocks. -/
theorem test_initOut : answer (exec .initOut State.reset) = some (.ok, 0) ∧
    (outputV.en, outputV.bind, outputV.hp, outputV.outInit) = ([true, true], [0, 1], [0, 0], true) ∧
    answer (exec .initOut outputV) = some (.errAlreadyInit, 0) ∧
    answer (exec .initOut (State.resetAt { Config.reference with b := 1 } 0)) = some (.errConfig, 0) := by decide

/-- The `HalfPeriod` table: exact, rounded either way, and both clamps. -/
theorem test_halfPeriod :
    ([0x00000000, 0x80000000, 0x42C80000, 0x3F000000, 0x40400000, 0x40E00000, 0x42340000, 0x42055555, 0x48A2C2A0,
      0x48A2C2C0, 0x48F42400, 0x49742400, 0x49F42400, 0x7F7FFFFF, 0x39742400, 0x38F42400, 0x38D1B717,
      0x00000001] : List Word).map (halfPeriod Config.reference) =
    [0, 0, 5000, 1000000, 166667, 71429, 11111, 15000, 2, 1, 1, 1, 1, 1, 2147483648, 4294967295, 4294967295,
      4294967295] := by decide +kernel

/-- Which patterns are valid. -/
theorem test_hzValid :
    ([0x00000000, 0x80000000, 0x7F7FFFFF, 0x00000001, 0xBF800000, 0x80000001, 0xFF800000, 0x7F800000, 0x7FC00000,
      0x7F800001, 0xFFC00000] : List Word).map hzValid =
    [true, true, true, true, false, false, false, false, false, false, false] := by decide +kernel

/-- Output channel 0's registers. -/
def block (s : State) : Nat × Nat × Bool := (readAt 0 s.hp 0, readAt 0 s.cd 0, readAt false s.out 0)

/-- `outputV` with output channel 0's registers set. -/
def withBlock (hp cd : Nat) (out : Bool) : State :=
  { outputV with hp := [hp, 0], cd := [cd, 0], out := [out, false] }

/-- SV1, SV4, SV5 and SV7: start, same frequency again, reprogram, stop. -/
theorem test_setFreq :
    block (nextOf (exec (.setFreq 0 0x42C80000) (withBlock 0 0 false)) outputV) = (5000, 5000, false) ∧
    block (nextOf (exec (.setFreq 0 0x42C80000) (withBlock 5000 3766 true)) outputV) = (5000, 3766, true) ∧
    block (nextOf (exec (.setFreq 0 0x42480000) (withBlock 5000 3000 false)) outputV) = (10000, 3000, false) ∧
    block (nextOf (exec (.setFreq 0 0) (withBlock 4000 17 true)) outputV) = (0, 0, false) := by decide +kernel

/-- SV11: -0.0 is accepted and stored as given. -/
theorem test_setFreq_negative_zero :
    answer (exec (.setFreq 0 0x80000000) outputV) = some (.ok, 0) ∧
    (nextOf (exec (.setFreq 0 0x80000000) outputV) State.reset).hz = [0x80000000, 0] := by decide +kernel

/-- SV2, SV3, SV8, SV9, SV10 and SV12, one tick each. -/
theorem test_tick : block (tick (withBlock 5000 2 false)) = (5000, 1, false) ∧
    block (tick (withBlock 5000 1 false)) = (5000, 5000, true) ∧
    block (tick (withBlock 0 0 false)) = (0, 0, false) ∧
    block (tick (withBlock 1 1 false)) = (1, 1, true) ∧ block (tick (withBlock 1 1 true)) = (1, 1, false) ∧
    block (tick (withBlock 5000 0 false)) = (5000, 5000, true) ∧
    (tick State.reset).out = [false, false] := by decide

/-! ## Consumer vectors (part 2.5, S10, S11) -/

/-- A consumer whose lossy peak filter goes by this name, which the document does not give. -/
def registry : Registry := { lossyPeakName := "lossy_peak".toList, acceptNegative := false }

theorem test_registry : identifierForName registry "NONE".toList = 0 ∧ identifierForName registry "bogus".toList = 0 ∧
    identifierForName registry "Lossy_Peak".toList = 1 ∧ nameForIdentifier registry 2 = "none".toList := by decide

/-- S9, S11 and part 2.5: what parses and what does not. -/
theorem test_parse :
    parseArguments exactNumbers registry lossyPeakId "2.0,1.5".toList 7 =
      .state { decay := { negative := false, digits := 20, scale := 1 },
               delay := { negative := false, digits := 15, scale := 1 },
               peak := 0, tLast := 7, tPeak := 7, mode := .holding } ∧
    ["", "abc", "1.0", "1.0,", ",2", "x,2"].map (fun text => parseArguments exactNumbers registry lossyPeakId text.toList 0) =
      List.replicate 6 .malformed := by decide

/-- `decay = 1`, `delay = 2`, parsed at 10 s. -/
def peakV : LossyPeak ℚ :=
  { decay := { negative := false, digits := 1, scale := 0 }, delay := { negative := false, digits := 2, scale := 0 },
    peak := 0, tLast := 10000000, tPeak := 10000000, mode := .holding }

/-- The sample sequence of part 2.5, to the snap. -/
theorem test_lossyPeak :
    feedPeak exactNumbers Config.reference peakV
      [(0, 10000000), (30, 11000000), (20, 12000000), (20, 13000000), (20, 13500000), (20, 14500000), (20, 22500000),
        (20, 23500000), (25, 24500000)] =
    [0, 30, 30, 30, 59 / 2, 57 / 2, 41 / 2, 20, 25] := by decide +kernel

/-! ## Witnesses: for every obligation with hypotheses, values that meet all of them, clause by clause -/

/-- A block small enough to look at: two channels each way, four lines, 4-bit counters, a clock of 21 bits, 8-bit half-periods. -/
def tiny : Config where
  n := 2
  m := 2
  l := 4
  b := 2
  lineOf := [1, 2]
  pol := [.fall, .rise]
  cw := 4
  tw := 21
  hpw := 8
  rounding := .nearestEven
  inputSound := true
  outputSound := true

/-- The small block with both sides set up at `T = 0`. -/
def ready : State := setupOutputs (setupInputs (State.resetAt tiny 0))

/-- `ready` with a schedule. -/
def readyWith (inputs : List Event) : State := { ready with inputs := inputs }

/-- `ready` at the commit of a `POLL`. -/
def atCommit (prev snap : List Nat) (ts : Nat) : State := { ready with prev := prev, phase := .sampled snap ts }

/-- `ready` with output channel 0 running: half-period `hp`, `cd` ticks to go. -/
def running (hp cd : Nat) (out : Bool) : State := { ready with hp := [hp, 0], cd := [cd, 0], out := [out, false] }

theorem shaped_of_lengths (s : State)
    (h : (s.cnt.length, s.prev.length, s.freq.length, s.ovf.length) = (s.cfg.n, s.cfg.n, s.cfg.n, s.cfg.n))
    (hl : (s.lineMap.length, s.irqEn.length, s.irqPol.length, s.pend.length) = (s.cfg.l, s.cfg.l, s.cfg.l, s.cfg.l))
    (hm : (s.hz.length, s.hp.length, s.bind.length, s.en.length) = (s.cfg.m, s.cfg.m, s.cfg.m, s.cfg.m))
    (ho : (s.cd.length, s.out.length) = (s.cfg.m, s.cfg.m)) : Shaped s := by
  simp only [Prod.mk.injEq] at h hl hm ho
  exact ⟨h.1, h.2.1, h.2.2.1, h.2.2.2, hl.1, hl.2.1, hl.2.2.1, hl.2.2.2, hm.1, hm.2.1, hm.2.2.1, hm.2.2.2, ho.1, ho.2⟩

theorem onlyEnabledPend_of_bounded (s : State)
    (h : ∀ l, l < s.pend.length → readAt 0 s.pend l ≠ 0 → readAt false s.irqEn l = true) : OnlyEnabledPend s := by
  intro l hl
  by_cases hlt : l < s.pend.length
  · exact h l hlt hl
  · exact absurd (readAt_of_length_le 0 _ l (by omega)) hl

theorem finiteNonneg_of_zero (k : Nat) (xs : List Word) (h : xs = List.replicate k 0) : ∀ x ∈ xs, FiniteNonneg x := by
  intro x hx
  rw [h] at hx
  rw [List.eq_of_mem_replicate hx]
  exact Nat.zero_le _

theorem shaped_ready : Shaped ready := shaped_of_lengths _ rfl rfl rfl rfl

theorem inv_ready : Inv ready where
  cfg := by decide
  shaped := shaped_ready
  fits := ⟨by decide, by decide, by decide, by decide, by decide, trivial⟩
  freq := finiteNonneg_of_zero 2 _ rfl
  inputSide := by simp only [InputSideOk]; decide
  pend := onlyEnabledPend_of_bounded _ (by decide)
  outputSide := by simp only [OutputSideOk]; decide
  blocks := by unfold BlockOk; decide
  commanded := by
    intro j hj
    have h : j < 2 := hj
    interval_cases j <;> exact ⟨by decide +kernel, by decide +kernel⟩

/-- The invariant in a state with both sides set up, a running output, a request pending and a `POLL` in progress. -/
def busy : State :=
  { ready with
    hz := [0x461C4000, 0]
    hp := [50, 0]
    cd := [17, 0]
    out := [true, false]
    pend := [0, 1, 0, 0]
    phase := .loading [0]
    inputs := [.command 0, .serve 1] }

theorem inv_busy : Inv busy where
  cfg := by decide
  shaped := shaped_of_lengths _ rfl rfl rfl rfl
  fits := ⟨by decide, by decide, by decide, by decide, by decide, by simp only [ScratchOk, busy]; decide⟩
  freq := finiteNonneg_of_zero 2 _ rfl
  inputSide := by simp only [InputSideOk]; decide
  pend := onlyEnabledPend_of_bounded _ (by decide)
  outputSide := by simp only [OutputSideOk]; decide
  blocks := by unfold BlockOk; decide
  commanded := by
    intro j hj
    have h : j < 2 := hj
    interval_cases j <;> exact ⟨by decide +kernel, by decide +kernel⟩

/-! ### Encoding and steps -/

theorem witness_DecodeEncodeRoundTrip : Instr.wellFormed (.onEdge 255) = true ∧
    Instr.wellFormed (.setFreq 255 0xFFFFFFFF) = true ∧ Instr.wellFormed (.getFreq 255) = true ∧
    Instr.wellFormed (.getFlags 255) = true ∧ Instr.wellFormed .poll = true := by decide

theorem witness_DecodedWordsAreEncodings : decode (.edge 0xFF) = .instr (.onEdge 255) ∧
    decode (.command 0xFFFFFFFF04FF0000) = .instr (.setFreq 255 0xFFFFFFFF) := by decide

theorem witness_IllegalWordsSelectNoRow :
    (readyWith [.command 0x0000000003000001]).inputs = .command 0x0000000003000001 :: [] ∧
    (readyWith [.command 0x0000000003000001]).phase = .idle ∧
    decodeCommand 0x0000000003000001 = .illegal .reservedNotZero ∧
    decodeCommand 0x0000000107000000 = .illegal .unknownOpcode ∧
    decodeCommand 0x0000000106000000 = .illegal .unusedNotZero := by decide

theorem witness_CommandSelectsItsOwnRow : decodeCommand 0x0000000005FF0000 = .instr (.getFreq 255) := by decide

theorem witness_StepRunsTheDecodedInstruction :
    (ready.phase = .idle ∧ decodeCommand 0x0000000006010000 = .instr (.getFlags 1)) ∧
    (busy.inputs = .command 0 :: [.serve 1] ∧ busy.phase ≠ .idle) ∧
    ({ busy with inputs := [.pollStep] }.inputs = .pollStep :: [] ∧ { busy with inputs := [.pollStep] }.phase ≠ .idle) ∧
    ({ busy with inputs := [.serve 1] }.inputs = .serve 1 :: [] ∧ 0 < readAt 0 busy.pend (BitVec.toNat 1#8)) ∧
    ((readyWith [.spurious 255]).inputs = .spurious 255 :: [] ∧ mappedChannel ready (BitVec.toNat 255#8) = none) := by
  decide

theorem witness_PlacedWordIsRunNext : Shaped ready ∧ ready.phase = .idle ∧
    decodeTableWord 8 1 = some (.onEdge 1) ∧ decodeTableWord 8 255 = some (.onEdge 255) ∧
    decodeTableWord 64 0xFFFFFFFF04FF0000 = some (.setFreq 255 0xFFFFFFFF) := ⟨shaped_ready, by decide⟩

theorem witness_TransitionRaisesConfiguredRequest : Shaped (readyWith [.transition 3 .rise]) ∧
    (3 < ready.cfg.l ∧ ¬ (readAt false ready.irqEn 3 = true ∧ Edge.rise = readAt .fall ready.irqPol 3)) ∧
    (1 < ready.cfg.l ∧ readAt false ready.irqEn 1 = true ∧ Edge.fall = readAt .fall ready.irqPol 1) ∧
    ¬ (readAt false ready.irqEn 1 = true ∧ Edge.rise = readAt .fall ready.irqPol 1) :=
  ⟨shaped_of_lengths _ rfl rfl rfl rfl, by decide⟩

theorem witness_ServeTakesOneRequest : Shaped { busy with inputs := [.serve 1] } ∧
    0 < readAt 0 busy.pend (BitVec.toNat 1#8) ∧ mappedChannel busy (BitVec.toNat 1#8) = some 0 ∧ 0 < busy.cfg.n ∧
    mappedChannel busy (BitVec.toNat 1#8) ≠ some 1 :=
  ⟨shaped_of_lengths _ rfl rfl rfl rfl, by decide⟩

/-- One event of each agent, in a state where it has something to do. -/
theorem witness_AgentsWriteOnlyTheirOwn :
    ∀ e ∈ [Event.tick, .transition 1 .fall, .serve 1, .spurious 255, .command 0x0000000006010000, .pollStep],
      ∃ s t : State, s.inputs = e :: [] ∧ step s = .next t := by
  intro e he
  refine ⟨{ busy with inputs := [e] }, nextOf (step { busy with inputs := [e] }) ready, rfl, ?_⟩
  fin_cases he <;> rfl

theorem witness_SetupIsImmutable : (readyWith [.tick]).inputs = .tick :: [] ∧ Event.tick ≠ .reset ∧
    step (readyWith [.tick]) = .next (nextOf (step (readyWith [.tick])) ready) ∧
    ready.inInit = true ∧ ready.outInit = true := ⟨by decide, by decide, rfl, by decide⟩

/-- Two increments, and an increment after each operation it commutes with. -/
theorem witness_IncrementsCommute :
    (∀ i ∈ [Instr.onEdge 2, .initOut, .setFreq 0 0, .getFreq 1, .getFlags 1], ∃ t u : State,
      exec i ready = .next t ∧ exec (.onEdge 1) t = .next u) ∧
    (∃ t u : State, exec .poll (atCommit [0, 0] [3, 0] 1000000) = .next t ∧ exec (.onEdge 1) t = .next u) := by
  constructor
  · intro i hi
    refine ⟨nextOf (exec i ready) ready, nextOf (exec (.onEdge 1) (nextOf (exec i ready) ready)) ready, ?_, ?_⟩
    · fin_cases hi <;> rfl
    · rw [exec_onEdge_eq]; rfl
  · exact ⟨nextOf (exec .poll (atCommit [0, 0] [3, 0] 1000000)) ready, _, rfl, exec_onEdge_eq _ _⟩

/-! ### Edge counter -/

theorem witness_OnEdgeIncrementsMappedChannel : Shaped ready ∧
    (2 < ready.cfg.l ∧ readAt none ready.lineMap 2 = some 1 ∧ 1 < ready.cfg.n) ∧
    ready.cfg.l ≤ 4 ∧ readAt none ready.lineMap 3 = none := ⟨shaped_ready, by decide⟩

theorem witness_EdgesAddUp : Inv ready ∧ mappedChannel ready 1 = some 0 ∧ 0 < ready.cfg.n := ⟨inv_ready, by decide⟩

theorem witness_InitInBuildsTheMap : Shaped (State.resetAt tiny 3) ∧ (State.resetAt tiny 3).inInit = false ∧
    inputSetupOk (State.resetAt tiny 3).cfg = true ∧
    (1 < tiny.n ∧ ∀ i, i < tiny.n → tiny.line i ≠ 3) :=
  ⟨shaped_of_lengths _ rfl rfl rfl rfl, by decide⟩

theorem witness_InitInRefusals : ready.inInit = true ∧
    (State.resetAt { tiny with lineOf := [1, 1] } 0).inInit = false ∧
    inputConfigValid { tiny with lineOf := [1, 1] } = false ∧ inputConfigValid { tiny with lineOf := [1, 4] } = false := by
  decide

/-! ### Estimator -/

theorem witness_PollTakesItsMicroSteps :
    ((State.resetAt tiny 0).phase = .idle ∧ (State.resetAt tiny 0).inInit = false) ∧
    (ready.phase = .idle ∧ ready.inInit = true ∧ 1 ≤ ready.cfg.n) ∧
    (busy.phase = .loading [0] ∧ [0].length < busy.cfg.n) ∧
    ({ ready with phase := .loading [0, 0] }.phase = .loading [0, 0] ∧ ready.cfg.n ≤ [0, 0].length) := by decide

theorem witness_ThrottledPollChangesNothing : (atCommit [0, 0] [3, 0] 999999).phase = .sampled [3, 0] 999999 ∧
    elapsedUs tiny (atCommit [0, 0] [3, 0] 999999).tlast 999999 < 1000000 := by decide

theorem witness_CommitComputesEveryChannel :
    (atCommit [4, 0] [3, 0] 1000000).phase = .sampled [3, 0] 1000000 ∧
    1000000 ≤ elapsedUs tiny (atCommit [4, 0] [3, 0] 1000000).tlast 1000000 ∧
    (0 < tiny.n ∧ readAt 0 [3, 0] 0 < readAt 0 [4, 0] 0) ∧ (1 < tiny.n ∧ readAt 0 [4, 0] 1 ≤ readAt 0 [3, 0] 1) ∧
    (∀ i, i < tiny.n → readAt 0 [0, 0] i ≤ readAt 0 [3, 0] i) := by decide

/-- `ready` with the clock at `t`. -/
def readyAt (t : Nat) : State := { ready with t := t }

theorem witness_UninterruptedPollCompletes : ready.cfg.wf = true ∧ Shaped (readyAt 1000000) ∧
    (readyAt 1000000).phase = .idle ∧ (readyAt 1000000).inInit = true ∧
    1000000 ≤ elapsedUs tiny (readyAt 1000000).tlast (readyAt 1000000).now ∧
    elapsedUs tiny (readyAt 999999).tlast (readyAt 999999).now < 1000000 :=
  ⟨by decide, shaped_of_lengths _ rfl rfl rfl rfl, by decide⟩

/-- The state after a computing `POLL` of `readyAt 1000000`. -/
def polled : State := nextOf (pollSteps 4 (readyAt 1000000)) ready

theorem witness_SecondPollInSuccessionIsNoOp : Shaped (readyAt 1000000) ∧ (readyAt 1000000).phase = .idle ∧
    (readyAt 1000000).inInit = true ∧ pollSteps ((readyAt 1000000).cfg.n + 2) (readyAt 1000000) = .next polled ∧
    polled.tlast = (readyAt 1000000).now ∧ 999999 < 1000000 :=
  ⟨shaped_of_lengths _ rfl rfl rfl rfl, by decide, by decide, rfl, by decide, by decide⟩

theorem inv_readyAt (t : Nat) : Inv (readyAt t) := by
  obtain ⟨a, b, c, d, e, f, g, h, i⟩ := inv_ready
  exact ⟨a, ⟨b.1, b.2, b.3, b.4, b.5, b.6, b.7, b.8, b.9, b.10, b.11, b.12, b.13, b.14⟩,
    ⟨c.1, c.2, c.3, c.4, c.5, c.6⟩, d, e, f, g, h, i⟩

theorem witness_EdgesBetweenPollsAreItsPulses : Inv (readyAt 1000000) ∧ (readyAt 1000000).phase = .idle ∧
    (readyAt 1000000).inInit = true ∧
    1000000 ≤ elapsedUs tiny (readyAt 1000000).tlast (readyAt 1000000).now ∧
    pollSteps ((readyAt 1000000).cfg.n + 2) (readyAt 1000000) = .next polled ∧
    mappedChannel (readyAt 1000000) 1 = some 0 ∧ 0 < tiny.n ∧ readAt 0 (readyAt 1000000).cnt 0 + 15 < 2 ^ tiny.cw ∧
    edges 1 15 polled = .next (nextOf (edges 1 15 polled) ready) ∧ 1000000 < 2 ^ tiny.tw :=
  ⟨inv_readyAt _, by decide, by decide, by decide, rfl, by decide, by decide, by decide, rfl, by decide⟩

/-- A run of `readyAt 1000000`: a transition, its service, the four micro-steps of a `POLL`, and one more edge. -/
def counted : State :=
  { readyAt 1000000 with
    inputs := [.transition 1 .fall, .serve 1, .command 0x0000000003000000, .pollStep, .pollStep, .pollStep,
      .transition 1 .fall, .serve 1] }

theorem witness_EdgesAreConserved : Inv counted ∧ 0 < counted.cfg.n ∧ readAt 0 counted.cnt 0 = readAt 0 counted.prev 0 ∧
    (tally 0 8 counted).map (fun r => (readAt 0 r.1.cnt 0, readAt 0 r.1.prev 0, r.2)) = some (2, 1, 2, 1) := by
  obtain ⟨a, b, c, d, e, f, g, h, i⟩ := inv_ready
  refine ⟨⟨a, ⟨b.1, b.2, b.3, b.4, b.5, b.6, b.7, b.8, b.9, b.10, b.11, b.12, b.13, b.14⟩,
    ⟨c.1, c.2, c.3, c.4, c.5, c.6⟩, d, e, f, g, h, i⟩, by decide, by decide, ?_⟩
  decide +kernel

theorem witness_ElapsedIsTrueTimeBelowTheAlias : 2097151 ≤ 2097151 + (2 ^ tiny.tw - 1) ∧
    2097151 + (2 ^ tiny.tw - 1) - 2097151 < 2 ^ tiny.tw := by decide

theorem val32_of_pattern (p : Nat) (h : p ≤ maxFinite) :
    val32 (BitVec.ofNat 32 p) = (magnitude p : ℚ) / 2 ^ 149 := by
  have hm : maxFinite < 2 ^ 32 := by decide
  have e : (BitVec.ofNat 32 p).toNat = p := by rw [BitVec.toNat_ofNat]; exact Nat.mod_eq_of_lt (by omega)
  rw [val32_of_finiteNonneg _ (by unfold FiniteNonneg; rw [e]; exact h), e]

/-- 1.0 is representable, and 1/3 is below 2/3. -/
theorem witness_FreqRoundIsAdmissible : 0 < 3 ∧ FiniteNonneg 0x3F800000 ∧ val32 0x3F800000 = ((3 : Nat) : ℚ) / (3 : Nat) ∧
    ((1 : Nat) : ℚ) / (3 : Nat) ≤ ((2 : Nat) : ℚ) / (3 : Nat) ∧ ((1 : Nat) : ℚ) / (3 : Nat) = ((2 : Nat) : ℚ) / (6 : Nat) := by
  refine ⟨by decide, by unfold FiniteNonneg; decide, ?_, by norm_num, by norm_num⟩
  have h : magnitude 0x3F800000 = 2 ^ 149 := by decide
  rw [show (0x3F800000 : Word) = BitVec.ofNat 32 0x3F800000 from rfl, val32_of_pattern _ (by decide), h]
  norm_num

/-- The tie of 2^24 + 1: both neighbours are equally near. -/
theorem witness_DefaultFreqRoundIsNearestEven : 0 < 1 ∧ ((16777217 : Nat) : ℚ) / (1 : Nat) ≤ val32 0x7F7FFFFF ∧
    FiniteNonneg 0x4B800001 ∧ (0x4B800001 : Word) ≠ freqRound .nearestEven 16777217 1 ∧
    |val32 (freqRound .nearestEven 16777217 1) - ((16777217 : Nat) : ℚ) / (1 : Nat)| =
      |val32 0x4B800001 - ((16777217 : Nat) : ℚ) / (1 : Nat)| := by
  have h0 : freqRound .nearestEven 16777217 1 = BitVec.ofNat 32 0x4B800000 := by decide +kernel
  have m0 : magnitude 0x4B800000 = 16777216 * 2 ^ 149 := by decide +kernel
  have m1 : magnitude 0x4B800001 = 16777218 * 2 ^ 149 := by decide +kernel
  have m2 : magnitude 0x7F7FFFFF = (2 ^ 24 - 1) * 2 ^ 253 := by decide +kernel
  rw [show (0x4B800001 : Word) = BitVec.ofNat 32 0x4B800001 from rfl,
    show (0x7F7FFFFF : Word) = BitVec.ofNat 32 0x7F7FFFFF from rfl, h0, val32_of_pattern _ (by decide),
    val32_of_pattern _ (by decide), val32_of_pattern _ (by decide), m0, m1, m2]
  refine ⟨by decide, by norm_num, by unfold FiniteNonneg; decide, by decide, ?_⟩
  rw [abs_of_neg (by norm_num), abs_of_pos (by norm_num)]
  norm_num

theorem witness_GetFreqReadsTheFrequency : 1 < ready.cfg.n ∧ ready.cfg.n ≤ 2 := by decide

theorem witness_GetFlagsReadsTheFlag : 1 < ready.cfg.n ∧ ready.cfg.n ≤ 2 := by decide

/-! ### Synthesizer -/

theorem witness_InitOutBindsEveryChannel :
    ((State.resetAt tiny 0).outInit = false ∧ tiny.m ≤ tiny.b ∧ tiny.outputSound = true ∧ 1 < tiny.m) ∧
    ready.outInit = true ∧ (State.resetAt { tiny with b := 1 } 0).outInit = false ∧ { tiny with b := 1 }.b < tiny.m := by
  decide

theorem witness_SetFreqChecksInOrder : ready.cfg.m ≤ 2 ∧ 1 < ready.cfg.m ∧ hzValid 0xBF800000 = false ∧
    hzValid 0x42C80000 = true ∧ (State.resetAt tiny 0).outInit = false := by decide

theorem witness_SetFreqProgramsTheBlock : Shaped ready ∧ Shaped (running 50 17 true) ∧ 0 < ready.cfg.m ∧
    hzValid 0x461C4000 = true ∧ ready.outInit = true ∧ (running 50 17 true).outInit = true ∧
    halfPeriod tiny 0 = 0 ∧ halfPeriod tiny 0x461C4000 = 50 ∧ readAt 0 ready.hp 0 = 0 ∧
    readAt 0 (running 50 17 true).hp 0 ≠ 0 :=
  ⟨shaped_ready, shaped_of_lengths _ rfl rfl rfl rfl, by decide +kernel⟩

theorem witness_RepeatedSetFreqChangesNothing : Inv busy ∧ 0 < busy.cfg.m ∧ 1 < busy.cfg.m ∧ busy.outInit = true :=
  ⟨inv_busy, by decide⟩

/-- Zero, and 10 kHz away from both clamps. -/
theorem witness_HalfPeriodIsNearestTickCount : tiny.wf = true ∧ hzValid 0x461C4000 = true ∧ val32 0x461C4000 ≠ 0 ∧
    hzValid 0x80000000 = true ∧ val32 0x80000000 = 0 := by
  refine ⟨by decide, by decide, ?_, by decide, ?_⟩
  · rw [show (0x461C4000 : Word) = BitVec.ofNat 32 0x461C4000 from rfl, val32_of_pattern _ (by decide),
      show magnitude 0x461C4000 = 10000 * 2 ^ 149 by decide +kernel]
    norm_num
  · rw [val32_eq, show magnitude (unsignedPattern 0x80000000) = 0 by decide]
    simp

theorem witness_EmittedHalfPeriodIsAccurate : tiny.wf = true ∧ hzValid 0x461C4000 = true ∧ val32 0x461C4000 ≠ 0 ∧
    (1 : ℚ) / 2 ≤ (1000000 : ℚ) / (2 * val32 0x461C4000) ∧ halfPeriod tiny 0x461C4000 < 2 ^ tiny.hpw - 1 := by
  rw [show (0x461C4000 : Word) = BitVec.ofNat 32 0x461C4000 from rfl, val32_of_pattern _ (by decide),
    show magnitude 0x461C4000 = 10000 * 2 ^ 149 by decide +kernel]
  exact ⟨by decide, by decide, by norm_num, by norm_num, by decide +kernel⟩

theorem witness_TickStepsEveryBlock : (readyWith [.tick]).inputs = .tick :: [] ∧ 0 < ready.cfg.m ∧
    (readAt false (running 50 1 true).en 0 = true ∧ readAt 0 (running 50 1 true).hp 0 ≠ 0 ∧
      readAt 0 (running 50 1 true).cd 0 ≤ 1) ∧
    1 < readAt 0 (running 50 2 true).cd 0 ∧
    readAt 0 ready.hp 0 = 0 ∧ readAt false (State.resetAt tiny 0).en 0 = false := by decide

theorem witness_NewHalfPeriodTakenUpAtNextToggle : 0 < (running 50 17 true).cfg.m ∧
    readAt false (running 50 17 true).en 0 = true ∧ readAt 0 (running 50 17 true).hp 0 ≠ 0 ∧
    1 ≤ readAt 0 (running 50 17 true).cd 0 ∧ 16 < readAt 0 (running 50 17 true).cd 0 := by decide

theorem witness_StartedBlockEmitsASquareWave : Inv ready ∧ 0 < ready.cfg.m ∧ ready.outInit = true ∧
    hzValid 0x461C4000 = true ∧ halfPeriod ready.cfg 0x461C4000 ≠ 0 ∧ readAt 0 ready.hp 0 = 0 :=
  ⟨inv_ready, by decide +kernel⟩

theorem witness_StoppedOutputStaysLow : Inv busy ∧ 1 < busy.cfg.m ∧ readAt 0 busy.hp 1 = 0 ∧
    readAt false busy.en 1 = true ∧ exec (.setFreq 1 0) busy = .next (nextOf (exec (.setFreq 1 0) busy) busy) :=
  ⟨inv_busy, by decide, by decide, by decide, rfl⟩

/-- The output side before `INIT_OUT`, every register at its reset value. -/
theorem witness_StoppedOutputStaysLow_uninitialised : Inv (State.resetAt tiny 0) ∧ 1 < tiny.m ∧
    (State.resetAt tiny 0).outInit = false :=
  ⟨{ cfg := by decide
     shaped := shaped_of_lengths _ rfl rfl rfl rfl
     fits := ⟨by decide, by decide, by decide, by decide, by decide, trivial⟩
     freq := finiteNonneg_of_zero 2 _ rfl
     inputSide := by simp only [InputSideOk]; decide
     pend := onlyEnabledPend_of_bounded _ (by decide)
     outputSide := by simp only [OutputSideOk]; decide
     blocks := by unfold BlockOk; decide
     commanded := by
       intro j hj
       have h : j < 2 := hj
       interval_cases j <;> exact ⟨by decide +kernel, by decide +kernel⟩ }, by decide⟩

/-- An existing channel, an invalid pattern, a valid one, and the output side set up. -/
theorem witness_HzValidIsFiniteAndNotNegative : 1 < ready.cfg.m ∧ hzValid 0xFF800000 = false ∧
    hzValid 0x7F7FFFFF = true ∧ ready.outInit = true := by decide

/-! ### Failures, reset and invariants -/

theorem witness_FailedCommandWritesNothing : (∀ line, Instr.setFreq 2 0 ≠ .onEdge line) ∧ ready.phase = .idle ∧
    exec (.setFreq 2 0) ready = .next { ready with response := some { status := .errIndex, result := 0 } } ∧
    Status.errIndex ≠ .ok ∧
    commandStep 0x0000000300000000 ready = .next { ready with response := some { status := .errIllegal, result := 0 } } ∧
    Status.errIllegal ≠ .ok := ⟨fun _ => by simp, by decide, rfl, by decide, rfl, by decide⟩

/-- A block whose two setups both fail: a line wired twice, and fewer timing blocks than channels. -/
def broken : State := State.resetAt { tiny with lineOf := [1, 1], b := 1 } 0

theorem witness_FailedSetupIsFatalToItsSide : Inv broken ∧ inputSetupOk broken.cfg = false ∧
    outputSetupOk broken.cfg = false ∧ 0 < broken.cfg.m ∧ hzValid 0 = true :=
  ⟨{ cfg := by decide
     shaped := shaped_of_lengths _ rfl rfl rfl rfl
     fits := ⟨by decide, by decide, by decide, by decide, by decide, trivial⟩
     freq := finiteNonneg_of_zero 2 _ rfl
     inputSide := by simp only [InputSideOk]; decide
     pend := onlyEnabledPend_of_bounded _ (by decide)
     outputSide := by simp only [OutputSideOk]; decide
     blocks := by unfold BlockOk; decide
     commanded := by
       intro j hj
       have h : j < 2 := hj
       interval_cases j <;> exact ⟨by decide +kernel, by decide +kernel⟩ }, by decide⟩

theorem witness_TheTwoSidesAreSeparate :
    exec (.setFreq 0 0) ready = .next (nextOf (exec (.setFreq 0 0) ready) ready) ∧
    exec (.onEdge 1) ready = .next (nextOf (exec (.onEdge 1) ready) ready) := ⟨rfl, rfl⟩

theorem witness_ResetInputGivesResetValues : (readyWith [.reset]).inputs = .reset :: [] ∧
    1 < ready.cfg.n ∧ 3 < ready.cfg.l ∧ 1 < ready.cfg.m := by decide

theorem witness_ResetStateIsPassive : tiny.wf = true ∧ State.resetAt tiny 7 = State.resetAt tiny 7 ∧ 1 < tiny.n ∧
    1 < tiny.m ∧ hzValid 0x42C80000 = true := by decide

theorem witness_RegisterInvariantAtReset : Config.reference.wf = true ∧ tiny.wf = true := by decide

/-- A step of the `POLL` in progress, from a state in which everything is on the move. -/
theorem witness_RegisterInvariantKept : Inv busy ∧ step busy = .next { busy with phase := .loading [0, 0] } :=
  ⟨inv_busy, rfl⟩

/-- `ready` with the script of one `POLL`. -/
theorem witness_ScriptedPollEndsTheRun : tiny.wf = true ∧ Shaped (readyWith (pollLine tiny)) ∧
    (readyWith (pollLine tiny)).phase = .idle ∧ ready.inInit = true ∧ (∀ x ∈ ready.pend, x = 0) ∧
    (readyWith (pollLine tiny)).inputs = pollLine ready.cfg :=
  ⟨by decide, shaped_of_lengths _ rfl rfl rfl rfl, by decide⟩

/-- With part of the script left the run has not ended (R159). -/
theorem test_script_left : ¬ EndState (readyWith [.tick]) := by
  rintro ⟨h, -⟩
  exact List.cons_ne_nil _ _ h

/-! ### Consumer -/

theorem witness_PeakFilterTracksRises : (∀ x y, exactNumbers.lt x y = true → exactNumbers.le x y = true) ∧
    (([(1, 5), (2, 3), (9, 4)] : List (ℚ × Nat)).map Prod.fst).Pairwise (fun x y => exactNumbers.lt x y = true) ∧
    ∀ p ∈ ([(1, 5), (2, 3), (9, 4)] : List (ℚ × Nat)), exactNumbers.le peakV.peak p.1 = true := by
  refine ⟨fun x y h => ?_, by decide +kernel⟩
  simp only [exactNumbers, decide_eq_true_eq] at h ⊢
  exact le_of_lt h

/-- A peak of 100 set at 10 s, `decay = 1`, `delay = 2`; samples in the hold, in the decay and after the snap. -/
theorem witness_PeakFilterHoldsThenDecays : peakV.mode = .holding ∧ peakV.tLast = peakV.tPeak ∧
    (50 : ℚ) < { peakV with peak := 100 }.peak ∧ 0 ≤ peakV.decay.value ∧ 0 ≤ peakV.delay.value ∧
    [10000000, 12000000, 12000001, 70000000].Pairwise (· ≤ ·) ∧
    ∀ t ∈ [10000000, 12000000, 12000001, 70000000], peakV.tPeak ≤ t ∧ t < 2 ^ Config.reference.tw := by decide +kernel

theorem witness_UnknownFilterIsTheIdentity : (∀ known ∈ filterNames registry, sameName "bogus".toList known = false) ∧
    2 ≤ 2 := by decide

theorem witness_SerializedArgumentsParseBack :
    parseArguments exactNumbers registry lossyPeakId "1,2".toList 10000000 = .state peakV := by decide +kernel

/-! ### The joined machine -/

/-- The joined machine around `ready`, before any configuration. -/
def joinedReady : Joined ℚ := Joined.initial ready

/-- Channel 1 configured as `lossy_peak` with `decay = 1`, `delay = 2`, at `T = 0`. -/
def configured : Joined ℚ := (configureChannel exactNumbers registry joinedReady 1 "lossy_peak".toList "1,2".toList).1

/-- What channel 1's slot holds then. -/
def peakAtZero : LossyPeak ℚ := { peakV with tLast := 0, tPeak := 0 }

/-- S10, S11: a filter, a name that no entry has, and arguments that do not parse. -/
theorem test_configure : configured.slots = [.identity, .lossyPeak peakAtZero] ∧
    (configureChannel exactNumbers registry configured 1 "bogus".toList "1,2".toList).1.slots = [.identity, .identity] ∧
    (configureChannel exactNumbers registry configured 1 "bogus".toList "1,2".toList).2 = .accepted ∧
    (configureChannel exactNumbers registry configured 1 "lossy_peak".toList "abc".toList).1.slots =
      [.identity, .identity] ∧
    (configureChannel exactNumbers registry configured 1 "lossy_peak".toList "abc".toList).2 = .parseFailure := by
  decide +kernel

/-- The status of both channels (R101), and none of a channel that does not exist. -/
theorem test_channelStatus :
    [0, 1, 2].map (channelStatus registry configured) =
      [some { frequency := 0, filterName := "none".toList, arguments := none },
        some { frequency := 0, filterName := "lossy_peak".toList, arguments := some "1,2".toList }, none] := by
  decide +kernel

/-- `configured` at the commit of a `POLL` that finds 3 pulses on channel 1 in a second. -/
def committing : Joined ℚ :=
  { configured with block := { atCommit [0, 0] [0, 3] 1000000 with t := 1000000, inputs := [.pollStep] } }

/-- R116: the computing `POLL` makes both samples due; channel 1's is filtered once, and channel 0's stays due. -/
theorem test_sample_path :
    (joinedStep exactNumbers registry committing .block).due = [true, true] ∧
    (joinedStep exactNumbers registry (joinedStep exactNumbers registry committing .block) (.sample 1)).filtered =
      [none, some 3] ∧
    (joinedStep exactNumbers registry (joinedStep exactNumbers registry committing .block) (.sample 1)).due =
      [true, false] ∧
    (joinedStep exactNumbers registry committing (.sample 1)).filtered = [none, none] := by decide +kernel

theorem joinedOk_configured (s : State) (h : Inv s) (hn : s.cfg = tiny) : JoinedOk { configured with block := s } where
  block := h
  slots := by rw [hn]; rfl
  due := by rw [hn]; rfl
  filtered := by rw [hn]; rfl
  times := by
    intro slot hs
    have hs : slot ∈ [.identity, .lossyPeak peakAtZero] := by rw [← test_configure.1]; exact hs
    rw [hn]
    fin_cases hs
    · trivial
    · exact ⟨by decide, by decide⟩

/-- `ready` at the commit of a `POLL` sampled at `ts`, with one micro-step on the schedule. -/
def commitAt (ts : Nat) : State := { atCommit [0, 0] [0, 3] ts with inputs := [.pollStep] }

theorem inv_commitAt (ts : Nat) (h : ts < 2 ^ tiny.tw) : Inv (commitAt ts) := by
  obtain ⟨a, b, c, d, e, f, g, i, k⟩ := inv_ready
  exact ⟨a, ⟨b.1, b.2, b.3, b.4, b.5, b.6, b.7, b.8, b.9, b.10, b.11, b.12, b.13, b.14⟩,
    ⟨c.1, c.2, c.3, c.4, c.5, rfl, rfl, (by decide : ∀ x ∈ [0, 3], x < 2 ^ tiny.cw), h⟩, d, e, f, g, i, k⟩

/-- Well-formed and malformed arguments, a name that no entry has, and another channel. -/
theorem witness_ConfigureReplacesTheSlot : 1 < joinedReady.slots.length ∧
    sameName "lossy_peak".toList identityName = false ∧
    sameName "lossy_peak".toList registry.lossyPeakName = true ∧
    parseArguments exactNumbers registry lossyPeakId "1,2".toList joinedReady.block.now = .state peakAtZero ∧
    parseArguments exactNumbers registry lossyPeakId "abc".toList joinedReady.block.now = .malformed ∧
    (∀ known ∈ filterNames registry, sameName "bogus".toList known = false) ∧ 0 ≠ 1 := by decide +kernel

theorem witness_StatusNamesTheFilter : JoinedOk { configured with block := ready } ∧ 0 < ready.cfg.n ∧
    1 < ready.cfg.n ∧ readAt .identity configured.slots 0 = .identity ∧
    sameName "lossy_peak".toList identityName = false ∧ sameName "lossy_peak".toList registry.lossyPeakName = true ∧
    parseArguments exactNumbers registry lossyPeakId "1,2".toList ready.now = .state peakAtZero :=
  ⟨joinedOk_configured _ inv_ready rfl, by decide +kernel⟩

/-- A commit a second after the last one, and one a microsecond short of that. -/
theorem witness_ComputingPollMakesSamplesDue :
    (JoinedOk { configured with block := commitAt 1000000 } ∧ (commitAt 1000000).inputs = .pollStep :: [] ∧
      (commitAt 1000000).phase = .sampled [0, 3] 1000000 ∧
      1000000 ≤ elapsedUs tiny (commitAt 1000000).tlast 1000000 ∧ 1 < tiny.n) ∧
    (JoinedOk { configured with block := commitAt 999999 } ∧ (commitAt 999999).inputs = .pollStep :: [] ∧
      (commitAt 999999).phase = .sampled [0, 3] 999999 ∧
      elapsedUs tiny (commitAt 999999).tlast 999999 < 1000000) :=
  ⟨⟨joinedOk_configured _ (inv_commitAt _ (by decide)) rfl, by decide⟩,
    ⟨joinedOk_configured _ (inv_commitAt _ (by decide)) rfl, by decide⟩⟩

/-- Channel 1's sample is due, channel 0's is not. -/
theorem witness_DueSampleIsFilteredOnce : JoinedOk { configured with block := ready, due := [false, true] } ∧
    ready.phase = .idle ∧ 1 < ready.cfg.n ∧ readAt false [false, true] 1 = true ∧ readAt false [false, true] 0 = false :=
  have h := joinedOk_configured _ inv_ready rfl
  ⟨⟨h.block, h.slots, rfl, h.filtered, h.times⟩, by decide⟩

theorem witness_JoinedInvariantAtStart : Inv ready := inv_ready

theorem witness_JoinedInvariantKept : JoinedOk { configured with block := commitAt 1000000 } :=
  joinedOk_configured _ (inv_commitAt _ (by decide)) rfl

end Sys2Proof.Tests
end

/-!
PROOF. What a step can do, said once. `ExecEffect` lists the outcomes of every operation, `exec_effect` says that there are no others, and
the lemmas about the agents lead each event back to an operation or to one named update of the state. The statements about who writes
what (spec/10_state.md R31) and about the invariant go through them.
-/

namespace Sys2Proof.Machine

/-! ### Operations -/

/-- What operation `i` can make of the state `s` (spec/30_encoding.md R60). An operation of the host that fails or only reads is
`answered`: nothing but the response is new. -/
inductive ExecEffect (s : State) : Instr → State → Prop
  | edgeIgnored (line : Nat) : mappedChannel s line = none → ExecEffect s (.onEdge line) s
  | edgeCounted (line c : Nat) : mappedChannel s line = some c → ExecEffect s (.onEdge line) (atomicInc s c)
  | answered (i : Instr) (status : Status) (result : Word) : (∀ line, i ≠ .onEdge line) →
      ExecEffect s i (s.respond status result)
  | inputsSetUp : s.inInit = false → inputSetupOk s.cfg = true →
      ExecEffect s .initIn ((setupInputs s).respond .ok 0)
  | outputsSetUp : s.outInit = false → outputSetupOk s.cfg = true →
      ExecEffect s .initOut ((setupOutputs s).respond .ok 0)
  | pollStarted : s.phase = .idle → s.inInit = true → ExecEffect s .poll (pollAdvance { s with response := none } [])
  | pollAdvanced (snap : List Nat) : s.phase = .loading snap → ExecEffect s .poll (pollAdvance s snap)
  | pollThrottled (snap : List Nat) (ts : Nat) : s.phase = .sampled snap ts → elapsedUs s.cfg s.tlast ts < windowUs →
      ExecEffect s .poll (State.respond { s with phase := .idle } .ok 0)
  | pollComputed (snap : List Nat) (ts : Nat) : s.phase = .sampled snap ts → windowUs ≤ elapsedUs s.cfg s.tlast ts →
      ExecEffect s .poll
        (State.respond { compute s snap ts with phase := .idle } .ok (pollResult (anyNegativeDelta s snap)))
  | frequencySet (j : Nat) (hz : Word) : j < s.cfg.m → hzValid hz = true → s.outInit = true →
      ExecEffect s (.setFreq j hz)
        ((applyHalfPeriod { s with hz := s.hz.set j hz } j (halfPeriod s.cfg hz)).respond .ok
          (BitVec.ofNat 32 (halfPeriod s.cfg hz)))

/-- The listed effects are all there are. -/
theorem exec_effect {i : Instr} {s t : State} (h : exec i s = .next t) : ExecEffect s i t := by
  cases i with
  | onEdge line =>
    simp only [exec, execOnEdge] at h
    split at h <;> cases h
    · exact .edgeIgnored line ‹_›
    · exact .edgeCounted line _ ‹_›
  | initIn =>
    simp only [exec, execInitIn] at h
    split_ifs at h with hi hok <;> cases h
    · exact .answered _ _ _ (by simp)
    · exact .answered _ _ _ (by simp)
    · exact .inputsSetUp (by simpa using hi) (by simpa using hok)
  | initOut =>
    simp only [exec, execInitOut] at h
    split_ifs at h with ho hok <;> cases h
    · exact .answered _ _ _ (by simp)
    · exact .answered _ _ _ (by simp)
    · exact .outputsSetUp (by simpa using ho) (by simpa using hok)
  | poll =>
    simp only [exec, execPoll] at h
    split at h
    · split_ifs at h with hi <;> cases h
      · exact .answered _ _ _ (by simp)
      · exact .pollStarted ‹_› (by simpa using hi)
    · cases h
      exact .pollAdvanced _ ‹_›
    · next snap ts hp =>
      by_cases hw : elapsedUs s.cfg s.tlast ts < windowUs
      · rw [pollCommit_of_throttled s snap ts hw] at h
        cases h
        exact .pollThrottled snap ts hp hw
      · rw [pollCommit_of_window s snap ts (by omega)] at h
        cases h
        exact .pollComputed snap ts hp (by omega)
  | setFreq j hz =>
    simp only [exec, execSetFreq] at h
    split_ifs at h with hj hv ho <;> cases h
    · exact .answered _ _ _ (by simp)
    · exact .answered _ _ _ (by simp)
    · exact .answered _ _ _ (by simp)
    · exact .frequencySet j hz (by simpa [outputIndexOk] using hj) (by simpa using hv) (by simpa using ho)
  | getFreq i =>
    simp only [exec, execGetFreq] at h
    split_ifs at h <;> cases h <;> exact .answered _ _ _ (by simp)
  | getFlags i =>
    simp only [exec, execGetFlags] at h
    split_ifs at h <;> cases h <;> exact .answered _ _ _ (by simp)

/-- The registers that `apply_half_period` writes (spec/45_pulse_synthesizer.md R125, R126). -/
theorem applyHalfPeriod_eq (s : State) (j hp : Nat) : applyHalfPeriod s j hp =
    { s with
      hp := s.hp.set j hp
      cd := if hp = 0 then s.cd.set j 0 else if readAt 0 s.hp j = 0 then s.cd.set j hp else s.cd
      out := if hp = 0 then s.out.set j false else s.out } := by
  unfold applyHalfPeriod
  split_ifs with h0
  · rw [h0]
  · rfl
  · rfl

/-- A micro-step that loads or samples writes the scratch only (R86). -/
theorem pollAdvance_frame (s : State) (snap : List Nat) :
    pollAdvance s snap = { s with phase := (pollAdvance s snap).phase } := by
  unfold pollAdvance
  split <;> rfl

/-! ### Agents -/

/-- A spurious edge changes nothing: either its line is unmapped, or its agent does not take it (R78). -/
theorem spuriousStep_eq (request : Byte) (s : State) : spuriousStep request s = .next s := by
  unfold spuriousStep
  split
  · next h => simp [decodeEdge, exec_onEdge_eq, h]
  · rfl

/-- Serving a line drops the event, or takes a pending request and runs `ON_EDGE` (R76). -/
theorem serveStep_cases {request : Byte} {s t : State} (h : serveStep request s = .next t) :
    t = s ∨ (0 < readAt 0 s.pend request.toNat ∧
      exec (.onEdge request.toNat) (takeRequest request.toNat s) = .next t) := by
  unfold serveStep at h
  split at h
  · next hp => exact .inr ⟨hp, h⟩
  · cases h
    exact .inl rfl

/-- A step of the host, on the schedule `r` that it leaves: nothing happens, or an illegal command is answered, or an operation of the
host runs (R61, R65, R86). -/
theorem hostStep_cases {e : Event} {s t : State} (he : (∃ w, e = .command w) ∨ e = .pollStep)
    (h : agentStep e s = .next t) :
    ∃ r, r = { s with inputs := r.inputs } ∧
      (t = r ∨ t = r.respond .errIllegal 0 ∨ ∃ i, (∀ line, i ≠ .onEdge line) ∧ exec i r = .next t) := by
  rcases he with ⟨w, rfl⟩ | rfl
  · simp only [agentStep] at h
    split_ifs at h
    · refine ⟨s.popped, rfl, .inr ?_⟩
      unfold commandStep at h
      split at h
      · next i hi => exact .inr ⟨i, fun line hl => decodeCommand_ne_onEdge w line (hl ▸ hi), h⟩
      · cases h
        exact .inl rfl
    · exact ⟨s, rfl, .inr (.inr ⟨.poll, by simp, h⟩)⟩
  · refine ⟨s.popped, rfl, ?_⟩
    simp only [agentStep, pollStep] at h
    split_ifs at h
    · cases h
      exact .inl rfl
    · exact .inr (.inr ⟨.poll, by simp, h⟩)

/-- What no step of the host writes (R31). -/
theorem hostStep_frame {e : Event} {s t : State} (he : (∃ w, e = .command w) ∨ e = .pollStep)
    (h : agentStep e s = .next t) : t.cfg = s.cfg ∧ t.cnt = s.cnt ∧ t.pend = s.pend ∧ t.t = s.t := by
  obtain ⟨r, hr, rfl | rfl | ⟨i, hi, hx⟩⟩ := hostStep_cases he h
  · rw [hr]
    simp
  · rw [hr]
    simp
  · obtain ⟨hcfg, hcnt, hpend, ht, -, -⟩ := exec_host_frame i r t hi hx
    rw [hcfg, hcnt, hpend, ht, hr]
    simp

/-- A request that is served writes `PEND` and `CNT` only (R76, R77). -/
theorem serveStep_frame {request : Byte} {s t : State} (h : serveStep request s = .next t) :
    t = { s with pend := t.pend, cnt := t.cnt } := by
  obtain rfl | ⟨-, hx⟩ := serveStep_cases h
  · rfl
  · rw [exec_onEdge_eq] at hx
    cases hx
    rfl

/-- The edge detector writes `PEND` only (R75). -/
theorem edgeDetect_frame (line : Nat) (edge : Edge) (s : State) :
    edgeDetect line edge s = { s with pend := (edgeDetect line edge s).pend } := by
  unfold edgeDetect
  split <;> rfl

/-- A tick that finds no block running advances the clock only (R128). -/
theorem tick_of_stopped (s : State) (hcd : s.cd.length = s.cfg.m) (hout : s.out.length = s.cfg.m)
    (h : ∀ j, blockRuns s j = false) : tick s = { s with t := s.t + 1 } := by
  have e1 : tickedCd s = readAt 0 s.cd := funext fun j => by simp [tickedCd, h j]
  have e2 : tickedOut s = readAt false s.out := funext fun j => by simp [tickedOut, h j]
  simp only [tick, e1, e2, tabulate_readAt 0 s.cd _ hcd, tabulate_readAt false s.out _ hout]

/-- Any number of ticks that find no block running. -/
theorem ticks_of_stopped (k : Nat) : ∀ s : State, s.cd.length = s.cfg.m → s.out.length = s.cfg.m →
    (∀ j, blockRuns s j = false) → ticks k s = { s with t := s.t + k } := by
  induction k with
  | zero => intro s _ _ _; rfl
  | succ k ih =>
    intro s hcd hout h
    rw [ticks, tick_of_stopped s hcd hout h, ih { s with t := s.t + 1 } hcd hout h, Nat.add_assoc, Nat.add_comm 1]

end Sys2Proof.Machine

/-!
PROOF. Who writes what (spec/10_state.md R31, R33), and what stays once setup has written it (R14, R18, R20, R52).
-/

namespace Sys2Proof.Machine

/-! ### Ownership -/

/-- No step writes the parameters (R33). -/
theorem agentStep_cfg {e : Event} {s t : State} (h : agentStep e s = .next t) : t.cfg = s.cfg := by
  cases e with
  | tick => cases h; rfl
  | transition line edge => cases h; simp
  | serve request => rw [serveStep_frame h]; rfl
  | spurious request =>
    rw [agentStep, spuriousStep_eq] at h
    cases h
    rfl
  | command w => exact (hostStep_frame (.inl ⟨w, rfl⟩) h).1
  | pollStep => exact (hostStep_frame (.inr rfl) h).1
  | reset => cases h; rfl

/-- Settles O11: each event's step is one of the named updates, and those write what the table of R31 says. -/
theorem agentsWriteOnlyTheirOwn : Obligations.AgentsWriteOnlyTheirOwn := by
  intro s t e rest hs h
  rw [step_of_cons s e rest hs] at h
  have hpop := popped_of_cons s e rest hs
  refine ⟨agentStep_cfg h, ?_, ?_, ?_, ?_⟩
  · rintro b (rfl | rfl)
    · have := serveStep_frame h
      rwa [hpop] at this
    · rw [agentStep, spuriousStep_eq, hpop] at h
      cases h
      rfl
  · rintro l d rfl
    cases h
    rw [hpop]
    exact edgeDetect_frame ..
  · rintro rfl
    cases h
    rw [hpop]
    rfl
  · intro w he
    exact (hostStep_frame (he.imp_left fun hw => ⟨w, hw⟩) h).2

/-! ### Setup -/

/-- What setup wrote in `s` stands unchanged in `t`. -/
def SetupKept (s t : State) : Prop :=
  (s.inInit = true →
    t.inInit = true ∧ t.lineMap = s.lineMap ∧ t.irqEn = s.irqEn ∧ t.irqPol = s.irqPol) ∧
  (s.outInit = true → t.outInit = true ∧ t.bind = s.bind ∧ t.en = s.en)

/-- Both setup operations refuse to run twice, and no other operation writes what they wrote (R80, R121). -/
theorem exec_setupKept {i : Instr} {s t : State} (h : exec i s = .next t) : SetupKept s t := by
  cases exec_effect h with
  | inputsSetUp hi hok => exact ⟨by simp [hi], fun ho => ⟨ho, rfl, rfl⟩⟩
  | outputsSetUp ho hok => exact ⟨fun hi => ⟨hi, rfl, rfl, rfl⟩, by simp [ho]⟩
  | _ => simp [SetupKept]

/-- Only the reset input undoes setup. -/
theorem agentStep_setupKept {e : Event} {s t : State} (he : e ≠ .reset) (h : agentStep e s = .next t) :
    SetupKept s t := by
  have host (he : (∃ w, e = .command w) ∨ e = .pollStep) : SetupKept s t := by
    obtain ⟨r, hr, rfl | rfl | ⟨i, -, hx⟩⟩ := hostStep_cases he h
    · rw [hr]; simp [SetupKept]
    · rw [hr]; simp [SetupKept]
    · have := exec_setupKept hx
      rwa [hr] at this
  cases e with
  | tick => cases h; simp [SetupKept]
  | transition line edge => cases h; simp [SetupKept]
  | serve request => rw [serveStep_frame h]; simp [SetupKept]
  | spurious request =>
    rw [agentStep, spuriousStep_eq] at h
    cases h
    simp [SetupKept]
  | command w => exact host (.inl ⟨w, rfl⟩)
  | pollStep => exact host (.inr rfl)
  | reset => exact absurd rfl he

/-- Settles O12: every operation keeps what setup wrote, and so does every other agent's update but the reset. -/
theorem setupIsImmutable : Obligations.SetupIsImmutable := by
  intro s t e rest hs he h
  rw [step_of_cons s e rest hs] at h
  exact agentStep_setupKept he h

/-! ### The reset state -/

/-- Settles O44: the registers of `hardReset` are those of the reset state, replicated to the parameters' lengths. -/
theorem resetInputGivesResetValues : Obligations.ResetInputGivesResetValues := by
  intro s rest hs
  refine ⟨hardReset s.popped, step_of_cons s .reset rest hs, rfl, rfl, ?_, ?_, ?_, rfl, rfl, rfl, rfl⟩
  · intro i hi
    simp [hardReset, State.resetAt, hi]
  · intro l hl
    simp [hardReset, State.resetAt, hl]
  · intro j hj
    simp [hardReset, State.resetAt, hj]

/-- In the reset state no line is mapped (R32). -/
@[simp] theorem mappedChannel_resetAt (c : Config) (t line : Nat) : mappedChannel (State.resetAt c t) line = none := by
  simp [mappedChannel, State.resetAt]

/-- In the reset state no timing block runs (R32). -/
@[simp] theorem blockRuns_resetAt (c : Config) (t j : Nat) : blockRuns (State.resetAt c t) j = false := by
  simp [blockRuns, State.resetAt]

/-- Settles O45: no line is enabled or mapped, both setup flags are clear, every frequency and flag is 0 and no block runs. -/
theorem resetStateIsPassive : Obligations.ResetStateIsPassive := by
  rintro c t s - rfl
  refine ⟨fun l d => ?_, fun l => ?_, rfl, fun i hi => ⟨?_, ?_⟩, fun j hz hj hv => ?_, fun k => ?_⟩
  · have hoff : readAt false (State.resetAt c t).irqEn l = false := by simp [State.resetAt]
    simp [edgeDetect, hoff]
  · simp [exec_onEdge_eq]
  · have hf : readAt 0 (State.resetAt c t).freq i = 0 := by simp [State.resetAt]
    have hok : inputIndexOk (State.resetAt c t) i = true := decide_eq_true hi
    rw [exec, execGetFreq, hok, hf]
    rfl
  · have hf : readAt false (State.resetAt c t).ovf i = false := by simp [State.resetAt]
    have hok : inputIndexOk (State.resetAt c t) i = true := decide_eq_true hi
    simp [exec, execGetFlags, hok, hf, flagWord, succeed_eq]
  · have hok : outputIndexOk (State.resetAt c t) j = true := decide_eq_true hj
    have ho : (State.resetAt c t).outInit = false := rfl
    simp [exec, execSetFreq, hok, hv, ho, raise_eq]
  · exact ticks_of_stopped k _ (List.length_replicate ..) (List.length_replicate ..) (by simp)

end Sys2Proof.Machine

/-!
PROOF. The register invariant (spec/10_state.md R11 to R26). No agent's update mixes the two sides of the block, so the invariant is split:
`InputInv` speaks of the edge counter's and the estimator's registers, `OutputInv` of the synthesizer's. Each update is then shown to keep
the side it writes; the other side is a frame.
-/

namespace Sys2Proof.Machine

/-! ### The two sides -/

/-- The part of `Inv` that speaks of the input side. -/
structure InputInv (s : State) : Prop where
  cntLength : s.cnt.length = s.cfg.n
  prevLength : s.prev.length = s.cfg.n
  freqLength : s.freq.length = s.cfg.n
  ovfLength : s.ovf.length = s.cfg.n
  lineMapLength : s.lineMap.length = s.cfg.l
  irqEnLength : s.irqEn.length = s.cfg.l
  irqPolLength : s.irqPol.length = s.cfg.l
  pendLength : s.pend.length = s.cfg.l
  cnt : ∀ x ∈ s.cnt, x < 2 ^ s.cfg.cw
  prev : ∀ x ∈ s.prev, x < 2 ^ s.cfg.cw
  tlast : s.tlast < 2 ^ s.cfg.tw
  scratch : ScratchOk s
  freq : ∀ f ∈ s.freq, FiniteNonneg f
  side : InputSideOk s
  pend : OnlyEnabledPend s

/-- The part of `Inv` that speaks of the output side. -/
structure OutputInv (s : State) : Prop where
  hzLength : s.hz.length = s.cfg.m
  hpLength : s.hp.length = s.cfg.m
  bindLength : s.bind.length = s.cfg.m
  enLength : s.en.length = s.cfg.m
  cdLength : s.cd.length = s.cfg.m
  outLength : s.out.length = s.cfg.m
  hp : ∀ x ∈ s.hp, x < 2 ^ s.cfg.hpw
  cd : ∀ x ∈ s.cd, x < 2 ^ s.cfg.hpw
  side : OutputSideOk s
  blocks : ∀ j, j < s.cfg.m → BlockOk s j
  commanded : ∀ j, j < s.cfg.m → CommandedOk s j

/-- The two parts, and the bounds on the parameters, are the whole invariant. -/
theorem inv_iff (s : State) : Inv s ↔ s.cfg.wf = true ∧ InputInv s ∧ OutputInv s := by
  constructor
  · rintro ⟨hw, ⟨h1, h2, h3, h4, h5, h6, h7, h8, h9, h10, h11, h12, h13, h14⟩, ⟨f1, f2, f3, f4, f5, f6⟩, hf, hi, hp,
      ho, hb, hc⟩
    exact ⟨hw, ⟨h1, h2, h3, h4, h5, h6, h7, h8, f1, f2, f3, f6, hf, hi, hp⟩,
      ⟨h9, h10, h11, h12, h13, h14, f4, f5, ho, hb, hc⟩⟩
  · rintro ⟨hw, ⟨h1, h2, h3, h4, h5, h6, h7, h8, f1, f2, f3, f6, hf, hi, hp⟩,
      ⟨h9, h10, h11, h12, h13, h14, f4, f5, ho, hb, hc⟩⟩
    exact ⟨hw, ⟨h1, h2, h3, h4, h5, h6, h7, h8, h9, h10, h11, h12, h13, h14⟩, ⟨f1, f2, f3, f4, f5, f6⟩, hf, hi, hp,
      ho, hb, hc⟩

/-- The output side, the clock, the response and the schedule are no matter of the input side's part. -/
theorem InputInv.frame {s t : State} (h : InputInv s)
    (ht : t = { s with
      hz := t.hz, hp := t.hp, bind := t.bind, en := t.en, cd := t.cd, out := t.out, outInit := t.outInit
      t := t.t, response := t.response, inputs := t.inputs, drawn := t.drawn }) : InputInv t := by
  rw [ht]
  obtain ⟨h1, h2, h3, h4, h5, h6, h7, h8, h9, h10, h11, h12, h13, h14, h15⟩ := h
  exact ⟨h1, h2, h3, h4, h5, h6, h7, h8, h9, h10, h11, h12, h13, h14, h15⟩

/-- The input side, the clock, the response and the schedule are no matter of the output side's part. -/
theorem OutputInv.frame {s t : State} (h : OutputInv s)
    (ht : t = { s with
      cnt := t.cnt, prev := t.prev, freq := t.freq, ovf := t.ovf, lineMap := t.lineMap, irqEn := t.irqEn
      irqPol := t.irqPol, pend := t.pend, tlast := t.tlast, inInit := t.inInit, phase := t.phase
      t := t.t, response := t.response, inputs := t.inputs, drawn := t.drawn }) : OutputInv t := by
  rw [ht]
  obtain ⟨h1, h2, h3, h4, h5, h6, h7, h8, h9, h10, h11⟩ := h
  exact ⟨h1, h2, h3, h4, h5, h6, h7, h8, h9, h10, h11⟩

/-- The schedule and the response are no matter of the invariant. -/
theorem Inv.frame {s t : State} (h : Inv s)
    (ht : t = { s with response := t.response, inputs := t.inputs, drawn := t.drawn }) : Inv t := by
  obtain ⟨hw, hin, hout⟩ := (inv_iff s).1 h
  rw [ht]
  exact (inv_iff _).2 ⟨hw, hin.frame rfl, hout.frame rfl⟩

/-! ### Before and after setup -/

/-- Before `INIT_IN` the input side is in its reset state. -/
theorem InputInv.of_not_inInit {s : State} (h : InputInv s) (hi : s.inInit = false) :
    s.lineMap = List.replicate s.cfg.l none ∧ s.irqEn = List.replicate s.cfg.l false ∧
    s.pend = List.replicate s.cfg.l 0 := by
  have hside := h.side
  simp only [InputSideOk, hi, Bool.false_eq_true, if_false] at hside
  obtain ⟨hmap, hen, -, -, -, -, -, hpend, -⟩ := hside
  exact ⟨hmap, hen, hpend⟩

/-- The input side of a state that is set up depends on the map, the enables and the polarities only. -/
theorem inputSideOk_of_kept {s t : State} (h : InputSideOk s) (hi : s.inInit = true) (hcfg : t.cfg = s.cfg)
    (hk : SetupKept s t) : InputSideOk t := by
  obtain ⟨hti, hmap, hen, hpol⟩ := hk.1 hi
  simpa [InputSideOk, hi, hti, hcfg, hmap, hen, hpol] using h

/-- An enabled line shows that the input side is set up (R18). -/
theorem InputInv.inInit_of_enabled {s : State} (h : InputInv s) {line : Nat}
    (he : readAt false s.irqEn line = true) : s.inInit = true := by
  by_contra hi
  obtain ⟨-, hen, -⟩ := h.of_not_inInit (by simpa using hi)
  simp [hen] at he

/-- A mapped line shows that the input side is set up (R14). -/
theorem InputInv.inInit_of_mapped {s : State} (h : InputInv s) {line c : Nat}
    (hm : mappedChannel s line = some c) : s.inInit = true := by
  by_contra hi
  obtain ⟨hmap, -, -⟩ := h.of_not_inInit (by simpa using hi)
  simp [mappedChannel, hmap] at hm

/-- The scratch while counters are loaded (R26). -/
theorem InputInv.scratch_of_loading {s : State} (h : InputInv s) {snap : List Nat} (hp : s.phase = .loading snap) :
    s.inInit = true ∧ snap.length ≤ s.cfg.n ∧ ∀ x ∈ snap, x < 2 ^ s.cfg.cw := by
  simpa only [ScratchOk, hp] using h.scratch

/-- The scratch once the clock is sampled (R26). -/
theorem InputInv.scratch_of_sampled {s : State} (h : InputInv s) {snap : List Nat} {ts : Nat}
    (hp : s.phase = .sampled snap ts) :
    s.inInit = true ∧ snap.length = s.cfg.n ∧ (∀ x ∈ snap, x < 2 ^ s.cfg.cw) ∧ ts < 2 ^ s.cfg.tw := by
  simpa only [ScratchOk, hp] using h.scratch

/-- No `POLL` is in progress before `INIT_IN` (R85). -/
theorem InputInv.idle_of_not_inInit {s : State} (h : InputInv s) (hi : s.inInit = false) : s.phase = .idle := by
  cases hp : s.phase with
  | idle => rfl
  | loading snap => simpa [hi] using (h.scratch_of_loading hp).1
  | sampled snap ts => simpa [hi] using (h.scratch_of_sampled hp).1

/-! ### Updates of the input side -/

/-- The edge detector and the serving of a request write `PEND` only, of a line that is enabled (R75, R76). -/
theorem InputInv.kept_by_modifyPend {s : State} (h : InputInv s) (line : Nat) (f : Nat → Nat)
    (he : readAt false s.irqEn line = true) : InputInv { s with pend := s.pend.modify line f } where
  __ := h
  pendLength := by simp [h.pendLength]
  scratch := h.scratch
  side := inputSideOk_of_kept h.side (h.inInit_of_enabled he) rfl (by simp [SetupKept])
  pend := by
    intro k hk
    rw [readAt_modify] at hk
    split at hk
    · next hc => exact hc.1 ▸ he
    · exact h.pend k hk

/-- A counter is increased within its width (R45, R77). -/
theorem InputInv.kept_by_atomicInc {s : State} (h : InputInv s) {line c : Nat} (hm : mappedChannel s line = some c) :
    InputInv (atomicInc s c) where
  __ := h
  cntLength := by simp [h.cntLength]
  cnt := mem_modify_lt h.cnt fun _ => Nat.mod_lt _ (by positivity)
  scratch := h.scratch
  side := inputSideOk_of_kept h.side (h.inInit_of_mapped hm) rfl (by simp [SetupKept])
  pend := h.pend

/-- `INIT_IN` writes the map, the enables and the polarities of the parameters, when nothing is pending (R80). -/
theorem InputInv.kept_by_setupInputs {s : State} (h : InputInv s) (hi : s.inInit = false)
    (hok : inputSetupOk s.cfg = true) : InputInv (setupInputs s) where
  __ := h
  lineMapLength := by simp [builtLineMap, length_foldl_set]
  irqEnLength := by simp [enabledLines, length_foldl_set, h.irqEnLength]
  irqPolLength := by simp [policyOfLines, length_foldl_set, h.irqPolLength]
  tlast := Nat.mod_lt _ (by positivity)
  scratch := by simp [ScratchOk, h.idle_of_not_inInit hi]
  side := by
    have hside := h.side
    simp only [InputSideOk, hi, Bool.false_eq_true, if_false] at hside
    obtain ⟨-, hen, hpol, -⟩ := hside
    simp [InputSideOk, hok, hen, hpol]
  pend := by
    obtain ⟨-, -, hpend⟩ := h.of_not_inInit hi
    intro l hl
    simp [hpend] at hl

/-- The scratch of the `POLL` in progress is replaced by another that fits (R26). -/
theorem InputInv.kept_by_setPhase {s : State} (h : InputInv s) (p : Phase) (hp : ScratchOk { s with phase := p }) :
    InputInv { s with phase := p } :=
  { h with scratch := hp, side := h.side, pend := h.pend }

/-- A micro-step loads one counter, or samples the clock once all are loaded (R86, R87). -/
theorem InputInv.kept_by_pollAdvance {s : State} (h : InputInv s) (hi : s.inInit = true) {snap : List Nat}
    (hlen : snap.length ≤ s.cfg.n) (hsnap : ∀ x ∈ snap, x < 2 ^ s.cfg.cw) : InputInv (pollAdvance s snap) := by
  unfold pollAdvance
  split
  · next hlt =>
    refine h.kept_by_setPhase _ ⟨hi, by simpa using hlt, ?_⟩
    simp only [List.forall_mem_append, List.forall_mem_singleton]
    exact ⟨hsnap, readAt_lt h.cnt (by positivity) _⟩
  · exact h.kept_by_setPhase _ ⟨hi, by dsimp only; omega, hsnap, Nat.mod_lt _ (by positivity)⟩

/-- The default rounding gives a finite non-negative pattern (R92). -/
theorem finiteNonneg_nearestEvenRound (num den : Nat) : FiniteNonneg (nearestEvenRound num den) := by
  have hfloor := (floorPattern_spec num den).1.1
  unfold FiniteNonneg
  rw [toNat_nearestEvenRound]
  split <;> omega

/-- Whatever the device's rounding, it gives a finite non-negative pattern (R92). -/
theorem finiteNonneg_freqRound (mode : Rounding) (num den : Nat) : FiniteNonneg (freqRound mode num den) := by
  obtain heq | ⟨round, hround, heq⟩ := freqRound_cases mode
  · rw [heq]
    exact finiteNonneg_nearestEvenRound num den
  · rw [heq]
    exact hround.finite _ (by positivity)

/-- `FREQ[i]` is 0 or a rounded rate, finite and non-negative either way (R13). -/
theorem finiteNonneg_channelFreq (s : State) (snap : List Nat) (e i : Nat) : FiniteNonneg (channelFreq s snap e i) := by
  unfold channelFreq
  split
  · exact Nat.zero_le _
  · exact finiteNonneg_freqRound ..

/-- A computation fills `FREQ`, `OVF`, `PREV` and `TLAST` from a scratch that fits (R90, R91, R94). -/
theorem InputInv.kept_by_compute {s : State} (h : InputInv s) (hi : s.inInit = true) {snap : List Nat} {ts : Nat}
    (hsnap : ∀ x ∈ snap, x < 2 ^ s.cfg.cw) (hts : ts < 2 ^ s.cfg.tw) : InputInv (compute s snap ts) where
  __ := h
  prevLength := by simp
  freqLength := by simp
  ovfLength := by simp
  prev := by
    intro x hx
    obtain ⟨i, -, rfl⟩ := (mem_tabulate ..).1 hx
    exact readAt_lt hsnap (by positivity) i
  tlast := hts
  scratch := h.scratch
  freq := by
    intro f hf
    obtain ⟨i, -, rfl⟩ := (mem_tabulate ..).1 hf
    exact finiteNonneg_channelFreq ..
  side := inputSideOk_of_kept h.side hi rfl (by simp [SetupKept])
  pend := h.pend

/-! ### Updates of the output side -/

/-- The bounds on `HPW` that the parameters meet (log 9). -/
theorem hpw_pos_of_wf {c : Config} (h : c.wf = true) : 1 ≤ c.hpw := by
  simp only [Config.wf, Bool.and_eq_true, decide_eq_true_eq] at h
  exact h.2.1

/-- A half-period fits its register (R21, R127). -/
theorem halfPeriod_lt {c : Config} (h : 1 ≤ c.hpw) (hz : Word) : halfPeriod c hz < 2 ^ c.hpw := by
  have htwo : 2 ≤ 2 ^ c.hpw := Nat.le_self_pow (by omega) 2
  unfold halfPeriod clamp
  simp only
  split <;> omega

/-- Frequency 0 is accepted and stops a block (R124, R127). -/
theorem hzValid_zero : hzValid 0 = true := by decide

theorem halfPeriod_zero (c : Config) : halfPeriod c 0 = 0 := by simp [halfPeriod, unsignedPattern]

theorem commandedOk_of_zero {s : State} {j : Nat} (hz : readAt 0 s.hz j = 0) (hp : readAt 0 s.hp j = 0) :
    CommandedOk s j := by
  rw [CommandedOk, hz, hp]
  exact ⟨hzValid_zero, (halfPeriod_zero _).symm⟩

/-- Before `INIT_OUT` no block runs (R128, R163). -/
theorem OutputInv.stopped_of_not_outInit {s : State} (h : OutputInv s) (ho : s.outInit = false) (j : Nat) :
    blockRuns s j = false := by
  have hside := h.side
  simp only [OutputSideOk, ho, Bool.false_eq_true, if_false] at hside
  obtain ⟨-, hen, -⟩ := hside
  simp [blockRuns, hen]

/-- The output side of a state that is set up depends on the binding and the enables only. -/
theorem outputSideOk_of_kept {s t : State} (h : OutputSideOk s) (ho : s.outInit = true) (hcfg : t.cfg = s.cfg)
    (hk : SetupKept s t) : OutputSideOk t := by
  obtain ⟨hto, hbind, hen⟩ := hk.2 ho
  simpa [OutputSideOk, ho, hto, hcfg, hbind, hen] using h

/-- A count after a tick is an old one, one less, or the half-period (R128). -/
theorem tickedCd_lt {s : State} {bound : Nat} (hb : 0 < bound) (hhp : ∀ x ∈ s.hp, x < bound)
    (hcd : ∀ x ∈ s.cd, x < bound) (j : Nat) : tickedCd s j < bound := by
  have := readAt_lt hhp hb j
  have := readAt_lt hcd hb j
  unfold tickedCd
  split_ifs <;> omega

/-- A tick leaves a stopped block stopped and a running one with at least one tick to go (R23, R128). -/
theorem blockOk_tick {s : State} {j : Nat} (hj : j < s.cfg.m) (h : BlockOk s j) : BlockOk (tick s) j := by
  obtain ⟨hcd, hout⟩ := tick_at s j hj
  obtain ⟨hstop, hrun⟩ := h
  unfold BlockOk
  rw [hcd, hout, tick_hp]
  constructor
  · intro h0
    simpa [tickedCd, tickedOut, blockRuns, h0] using hstop h0
  · intro h0
    have := hrun h0
    unfold tickedCd
    split_ifs <;> omega

/-- A tick writes `CD` and `OUT` (R128). -/
theorem OutputInv.kept_by_tick {s : State} (h : OutputInv s) : OutputInv (tick s) := by
  cases ho : s.outInit with
  | false =>
    rw [tick_of_stopped s h.cdLength h.outLength (h.stopped_of_not_outInit ho)]
    exact h.frame rfl
  | true =>
    exact
      { h with
        cdLength := by simp
        outLength := by simp
        cd := by
          intro x hx
          obtain ⟨j, -, rfl⟩ := (mem_tabulate ..).1 hx
          exact tickedCd_lt (by positivity) h.hp h.cd j
        side := outputSideOk_of_kept h.side ho rfl (by simp [SetupKept])
        blocks := fun j hj => blockOk_tick hj (h.blocks j hj)
        commanded := h.commanded }

/-- `INIT_OUT` binds, enables and stops every channel (R121). -/
theorem outputInv_setupOutputs {s : State} (hok : outputSetupOk s.cfg = true) : OutputInv (setupOutputs s) where
  hzLength := by simp
  hpLength := by simp
  bindLength := by simp
  enLength := by simp
  cdLength := by simp
  outLength := by simp
  hp := by simp [mem_tabulate]
  cd := by simp [mem_tabulate]
  side := by simp [OutputSideOk, hok, tabulate]
  blocks := fun j hj => by simp [BlockOk]
  commanded := fun j _ => commandedOk_of_zero (by simp) (by simp)

/-- Stopping, starting or reprogramming one block keeps the relation of every block's registers (R23, R125, R126). -/
theorem blockOk_applyHalfPeriod {s : State} {j k hp : Nat} (h : BlockOk s k) (hcd : s.cd.length = s.hp.length)
    (hout : s.out.length = s.hp.length) : BlockOk (applyHalfPeriod s j hp) k := by
  obtain ⟨hstop, hrun⟩ := h
  rw [applyHalfPeriod_eq]
  unfold BlockOk
  by_cases hjk : j = k ∧ k < s.hp.length
  · by_cases h0 : hp = 0
    · simp [readAt_set, hjk, hcd, hout, h0]
    · by_cases hold : readAt 0 s.hp k = 0
      · simp [readAt_set, hjk, hcd, h0, hold, Nat.one_le_iff_ne_zero]
      · simp [readAt_set, hjk, h0, hold, hrun]
  · have hcd' (x) : readAt 0 (s.cd.set j x) k = readAt 0 s.cd k := by rw [readAt_set, hcd, if_neg hjk]
    have hout' (x) : readAt false (s.out.set j x) k = readAt false s.out k := by rw [readAt_set, hout, if_neg hjk]
    simp only [readAt_set, hjk, if_false, apply_ite (readAt 0 · k), apply_ite (readAt false · k), hcd', hout', ite_self]
    exact ⟨hstop, hrun⟩

/-- `SET_FREQ` records the frequency and applies its half-period (R123, R125, R126). -/
theorem OutputInv.kept_by_setFreq {s : State} (h : OutputInv s) (hw : 1 ≤ s.cfg.hpw) {j : Nat} {hz : Word}
    (hv : hzValid hz = true) (ho : s.outInit = true) :
    OutputInv (applyHalfPeriod { s with hz := s.hz.set j hz } j (halfPeriod s.cfg hz)) where
  hzLength := by simp [h.hzLength]
  hpLength := by simp [applyHalfPeriod_eq, h.hpLength]
  bindLength := by simp [h.bindLength]
  enLength := by simp [h.enLength]
  cdLength := by
    rw [applyHalfPeriod_eq]
    dsimp only
    split_ifs <;> simp [h.cdLength]
  outLength := by
    rw [applyHalfPeriod_eq]
    dsimp only
    split_ifs <;> simp [h.outLength]
  hp := by
    rw [applyHalfPeriod_eq]
    exact mem_set_lt h.hp (halfPeriod_lt hw hz)
  cd := by
    rw [applyHalfPeriod_eq]
    dsimp only
    split_ifs
    · exact mem_set_lt h.cd (by positivity)
    · exact mem_set_lt h.cd (halfPeriod_lt hw hz)
    · exact h.cd
  side := outputSideOk_of_kept h.side ho (by simp) (by simp [SetupKept])
  blocks := fun k hk => blockOk_applyHalfPeriod (s := { s with hz := s.hz.set j hz })
    (h.blocks k (by simpa using hk)) (h.cdLength.trans h.hpLength.symm) (h.outLength.trans h.hpLength.symm)
  commanded := fun k hk => by
    obtain ⟨hvk, hpk⟩ := h.commanded k (by simpa using hk)
    rw [applyHalfPeriod_eq]
    unfold CommandedOk
    by_cases hjk : j = k ∧ k < s.cfg.m
    · simp [readAt_set, hjk, h.hzLength, h.hpLength, hv]
    · simp only [readAt_set, h.hzLength, h.hpLength, hjk, if_false]
      exact ⟨hvk, hpk⟩

/-! ### The reset state -/

/-- The reset state meets the invariant (R32). -/
theorem inv_resetAt {c : Config} (hw : c.wf = true) (t : Nat) : Inv (State.resetAt c t) := by
  refine (inv_iff _).2 ⟨hw, ?_, ?_⟩
  · exact
      { cntLength := List.length_replicate ..
        prevLength := List.length_replicate ..
        freqLength := List.length_replicate ..
        ovfLength := List.length_replicate ..
        lineMapLength := List.length_replicate ..
        irqEnLength := List.length_replicate ..
        irqPolLength := List.length_replicate ..
        pendLength := List.length_replicate ..
        cnt := by simp [State.resetAt]
        prev := by simp [State.resetAt]
        tlast := Nat.two_pow_pos _
        scratch := trivial
        freq := by simp [State.resetAt, FiniteNonneg]
        side := by simp [InputSideOk, State.resetAt]
        pend := fun l hl => by simp [State.resetAt] at hl }
  · exact
      { hzLength := List.length_replicate ..
        hpLength := List.length_replicate ..
        bindLength := List.length_replicate ..
        enLength := List.length_replicate ..
        cdLength := List.length_replicate ..
        outLength := List.length_replicate ..
        hp := by simp [State.resetAt]
        cd := by simp [State.resetAt]
        side := by simp [OutputSideOk, State.resetAt]
        blocks := fun j _ => by simp [BlockOk, State.resetAt]
        commanded := fun j _ => commandedOk_of_zero (by simp [State.resetAt]) (by simp [State.resetAt]) }

/-- Settles O46: the reset state is written out register by register. -/
theorem registerInvariantAtReset : Obligations.RegisterInvariantAtReset := fun _ t hw => inv_resetAt hw t

/-! ### Every step -/

/-- Every operation keeps the invariant, by the effects it can have. -/
theorem Inv.kept_by_exec {i : Instr} {s t : State} (h : Inv s) (hx : exec i s = .next t) : Inv t := by
  obtain ⟨hw, hin, hout⟩ := (inv_iff s).1 h
  refine (inv_iff t).2 ?_
  cases exec_effect hx with
  | edgeIgnored line hm => exact ⟨hw, hin, hout⟩
  | edgeCounted line c hm => exact ⟨hw, hin.kept_by_atomicInc hm, hout.frame rfl⟩
  | answered i status result hi => exact ⟨hw, hin.frame rfl, hout.frame rfl⟩
  | inputsSetUp hi hok => exact ⟨hw, (hin.kept_by_setupInputs hi hok).frame rfl, hout.frame rfl⟩
  | outputsSetUp ho hok => exact ⟨hw, hin.frame rfl, (outputInv_setupOutputs hok).frame rfl⟩
  | pollStarted hp hi =>
    have hin' : InputInv { s with response := none } := hin.frame rfl
    refine ⟨by simpa using hw, hin'.kept_by_pollAdvance hi (Nat.zero_le _) (by simp), hout.frame ?_⟩
    rw [pollAdvance_frame]
  | pollAdvanced snap hp =>
    obtain ⟨hi, hlen, hsnap⟩ := hin.scratch_of_loading hp
    refine ⟨by simpa using hw, hin.kept_by_pollAdvance hi hlen hsnap, hout.frame ?_⟩
    rw [pollAdvance_frame]
  | pollThrottled snap ts hp hwin => exact ⟨hw, (hin.kept_by_setPhase .idle trivial).frame rfl, hout.frame rfl⟩
  | pollComputed snap ts hp hwin =>
    obtain ⟨hi, -, hsnap, hts⟩ := hin.scratch_of_sampled hp
    exact ⟨hw, ((hin.kept_by_compute hi hsnap hts).kept_by_setPhase .idle trivial).frame rfl, hout.frame rfl⟩
  | frequencySet j hz hj hv ho =>
    refine ⟨by simpa using hw, hin.frame ?_, (hout.kept_by_setFreq (hpw_pos_of_wf hw) hv ho).frame rfl⟩
    rw [applyHalfPeriod_eq]
    rfl

/-- A served request was pending on an enabled line; taking it and counting the edge keep the invariant (R76, R77). -/
theorem Inv.kept_by_serveStep {request : Byte} {s t : State} (h : Inv s) (hx : serveStep request s = .next t) :
    Inv t := by
  obtain rfl | ⟨hp, hexec⟩ := serveStep_cases hx
  · exact h
  · obtain ⟨hw, hin, hout⟩ := (inv_iff s).1 h
    have htaken : InputInv (takeRequest request.toNat s) := hin.kept_by_modifyPend _ _ (hin.pend _ (by omega))
    exact Inv.kept_by_exec ((inv_iff (takeRequest request.toNat s)).2 ⟨hw, htaken, hout.frame rfl⟩) hexec

/-- The edge detector raises requests of enabled lines only (R75). -/
theorem Inv.kept_by_edgeDetect {s : State} (h : Inv s) (line : Nat) (edge : Edge) : Inv (edgeDetect line edge s) := by
  unfold edgeDetect
  split
  · next hc =>
    obtain ⟨hw, hin, hout⟩ := (inv_iff s).1 h
    exact (inv_iff _).2 ⟨hw, hin.kept_by_modifyPend line _ hc.1, hout.frame rfl⟩
  · exact h

/-- A tick is the output side's matter (R128). -/
theorem Inv.kept_by_tick {s : State} (h : Inv s) : Inv (tick s) := by
  obtain ⟨hw, hin, hout⟩ := (inv_iff s).1 h
  exact (inv_iff _).2 ⟨hw, hin.frame rfl, hout.kept_by_tick⟩

/-- A step of the host runs one operation, or none (R61, R86). -/
theorem Inv.kept_by_hostStep {e : Event} {s t : State} (h : Inv s) (he : (∃ w, e = .command w) ∨ e = .pollStep)
    (hx : agentStep e s = .next t) : Inv t := by
  obtain ⟨r, hr, hcases⟩ := hostStep_cases he hx
  have hinv : Inv r := by
    rw [hr]
    exact h.frame rfl
  obtain rfl | rfl | ⟨i, -, hexec⟩ := hcases
  · exact hinv
  · exact hinv.frame rfl
  · exact hinv.kept_by_exec hexec

/-- Every agent keeps the invariant (R48). -/
theorem Inv.kept_by_agentStep {e : Event} {s t : State} (h : Inv s) (hx : agentStep e s = .next t) : Inv t := by
  have hpop : Inv s.popped := h.frame rfl
  cases e with
  | tick => cases hx; exact hpop.kept_by_tick
  | transition line edge => cases hx; exact hpop.kept_by_edgeDetect line edge
  | serve request => exact hpop.kept_by_serveStep hx
  | spurious request =>
    rw [agentStep, spuriousStep_eq] at hx
    cases hx
    exact hpop
  | command w => exact h.kept_by_hostStep (.inl ⟨w, rfl⟩) hx
  | pollStep => exact h.kept_by_hostStep (.inr rfl) hx
  | reset => cases hx; exact (inv_resetAt h.cfg s.t).frame rfl

/-- Settles O47: every step is the step of some agent on the schedule that may have drawn a free event, and each agent keeps the
invariant. -/
theorem registerInvariantKept : Obligations.RegisterInvariantKept := by
  intro s t h hstep
  obtain ⟨e, rest, -, heq⟩ := step_cases s
  rw [heq] at hstep
  have hdrawn : Inv s.withEvent := h.frame (by rw [withEvent_frame])
  exact hdrawn.kept_by_agentStep hstep

end Sys2Proof.Machine

/-!
PROOF. The steps of the agents and the increments of the edge counter (spec/20_memory.md R45, R48, R49). First what a step does with the
event at the head of its schedule, one lemma per event; then `ON_EDGE` as a total update `countEdge`, on which the statements about
increments rest: an edge adds one, `k` edges add `k`, and an increment commutes with every operation that neither reads `CNT` nor writes
the map.
-/

namespace Sys2Proof.Machine

/-! ### The event at the head of the schedule -/

/-- A command between two commands is decoded and run (R60, R69). -/
theorem step_command_of_idle {s : State} {rest : List Event} {w : Command} {i : Instr} (h : s.inputs = .command w :: rest)
    (hp : s.phase = .idle) (hw : decodeCommand w = .instr i) : step s = exec i { s with inputs := rest } := by
  rw [step_of_cons s _ _ h]
  simp only [agentStep, hp, if_true, commandStep, hw, popped_of_cons s _ _ h]

/-- A command waits while a `POLL` is in progress (R69, log 5). -/
theorem step_command_of_polling {s : State} {rest : List Event} {w : Command} (h : s.inputs = .command w :: rest)
    (hp : s.phase ≠ .idle) : step s = exec .poll s := by
  rw [step_of_cons s _ _ h]
  exact if_neg hp

/-- The host takes the next micro-step of the `POLL` in progress (R86). -/
theorem step_pollStep_of_polling {s : State} {rest : List Event} (h : s.inputs = .pollStep :: rest)
    (hp : s.phase ≠ .idle) : step s = exec .poll { s with inputs := rest } := by
  rw [step_of_cons s _ _ h, agentStep, popped_of_cons s _ _ h]
  exact if_neg hp

/-- A pending request is taken and its `ON_EDGE` run in one step (R76). -/
theorem step_serve_of_pending {s : State} {rest : List Event} {request : Byte} (h : s.inputs = .serve request :: rest)
    (hp : 0 < readAt 0 s.pend request.toNat) :
    step s = exec (.onEdge request.toNat)
      { s with inputs := rest, pend := s.pend.modify request.toNat (· - 1) } := by
  rw [step_of_cons s _ _ h, agentStep, popped_of_cons s _ _ h]
  exact if_pos hp

/-- The request of an unmapped line runs `ON_EDGE` with no `PEND` bookkeeping (R78). -/
theorem step_spurious_of_unmapped {s : State} {rest : List Event} {request : Byte}
    (h : s.inputs = .spurious request :: rest) (hm : mappedChannel s request.toNat = none) :
    step s = exec (.onEdge request.toNat) { s with inputs := rest } := by
  have hm' : mappedChannel { s with inputs := rest } request.toNat = none := hm
  rw [step_of_cons s _ _ h, agentStep, popped_of_cons s _ _ h, spuriousStep, hm']
  rfl

/-- Settles O6, event by event. -/
theorem stepRunsTheDecodedInstruction : Obligations.StepRunsTheDecodedInstruction := fun _ _ =>
  ⟨fun _ _ => step_command_of_idle, fun _ => step_command_of_polling, step_pollStep_of_polling,
    fun _ => step_serve_of_pending, fun _ => step_spurious_of_unmapped⟩

/-! ### One edge -/

/-- The state after `ON_EDGE line` (R77, R78). -/
def countEdge (line : Nat) (s : State) : State :=
  match mappedChannel s line with
  | none => s
  | some c => atomicInc s c

theorem exec_onEdge (line : Nat) (s : State) : exec (.onEdge line) s = .next (countEdge line s) := by
  simp only [exec, execOnEdge, countEdge]
  cases mappedChannel s line <;> rfl

theorem countEdge_of_unmapped {s : State} {line : Nat} (h : mappedChannel s line = none) : countEdge line s = s := by
  simp only [countEdge, h]

theorem countEdge_of_mapped {s : State} {line c : Nat} (h : mappedChannel s line = some c) :
    countEdge line s = atomicInc s c := by
  simp only [countEdge, h]

/-- The map is read from the parameters and `LINEMAP` alone (R14, R77). -/
theorem mappedChannel_congr {s t : State} (hcfg : t.cfg = s.cfg) (hmap : t.lineMap = s.lineMap) (line : Nat) :
    mappedChannel t line = mappedChannel s line := by
  simp only [mappedChannel, hcfg, hmap]

@[simp] theorem mappedChannel_atomicInc (s : State) (c line : Nat) :
    mappedChannel (atomicInc s c) line = mappedChannel s line := mappedChannel_congr rfl rfl line

@[simp] theorem mappedChannel_countEdge (s : State) (a line : Nat) :
    mappedChannel (countEdge a s) line = mappedChannel s line := by
  cases h : mappedChannel s a with
  | none => rw [countEdge_of_unmapped h]
  | some c => rw [countEdge_of_mapped h, mappedChannel_atomicInc]

theorem readAt_atomicInc_same {s : State} {c : Nat} (hc : c < s.cnt.length) :
    readAt 0 (atomicInc s c).cnt c = (readAt 0 s.cnt c + 1) % 2 ^ s.cfg.cw := by
  simp [readAt_modify, hc]

theorem readAt_atomicInc_other {s : State} {c k : Nat} (hk : k ≠ c) :
    readAt 0 (atomicInc s c).cnt k = readAt 0 s.cnt k := by
  simp [readAt_modify, Ne.symm hk]

/-- Settles O14: a mapped line increments its channel's counter, any other line is ignored. -/
theorem onEdgeIncrementsMappedChannel : Obligations.OnEdgeIncrementsMappedChannel := by
  intro s line hs
  constructor
  · intro c hl hmap hc
    have hm : mappedChannel s line = some c := by rw [mappedChannel_of_lt s line hl, hmap]
    refine ⟨atomicInc s c, ?_, readAt_atomicInc_same (hs.cnt ▸ hc), fun k => readAt_atomicInc_other, rfl⟩
    rw [exec_onEdge, countEdge_of_mapped hm]
  · intro hnone
    have hm : mappedChannel s line = none := by
      by_cases hl : line < s.cfg.l
      · rw [mappedChannel_of_lt s line hl]
        exact hnone.resolve_left (by omega)
      · exact mappedChannel_of_le s line (by omega)
    rw [exec_onEdge, countEdge_of_unmapped hm]

/-! ### Many edges -/

/-- The first of `k + 1` edges of a mapped line increments its channel; the other `k` follow. -/
theorem edges_succ_of_mapped {s : State} {line c : Nat} (h : mappedChannel s line = some c) (k : Nat) :
    edges line (k + 1) s = edges line k (atomicInc s c) := by
  simp only [edges, exec_onEdge, countEdge_of_mapped h]

/-- Settles O15, by induction on the number of edges: each keeps the invariant and the map. The counter's width is needed for no edge
at all, where `CNT[c]` has to be its own remainder. -/
theorem edgesAddUp : Obligations.EdgesAddUp := by
  intro k
  induction k with
  | zero =>
    intro s line c h _ _
    have hlt : readAt 0 s.cnt c < 2 ^ s.cfg.cw := readAt_lt h.fits.cnt (by positivity) c
    exact ⟨s, rfl, (Nat.mod_eq_of_lt hlt).symm, fun _ _ => rfl, rfl⟩
  | succ k ih =>
    intro s line c h hm hc
    have hone : exec (.onEdge line) s = .next (atomicInc s c) := by rw [exec_onEdge, countEdge_of_mapped hm]
    obtain ⟨t, hrun, hsame, hother, hframe⟩ :=
      ih (atomicInc s c) line c (h.kept_by_exec hone) (by simpa using hm) hc
    refine ⟨t, by rw [edges_succ_of_mapped hm, hrun], ?_, ?_, hframe⟩
    · rw [hsame, readAt_atomicInc_same (h.shaped.cnt ▸ hc), atomicInc_cfg, Nat.mod_add_mod]
      congr 1
      omega
    · exact fun j hj => (hother j hj).trans (readAt_atomicInc_other hj)

/-! ### Increments commute -/

theorem atomicInc_comm (s : State) (a b : Nat) : atomicInc (atomicInc s a) b = atomicInc (atomicInc s b) a := by
  by_cases hab : a = b
  · rw [hab]
  · simp only [atomicInc, List.modify_modify_ne _ _ _ hab]

theorem countEdge_atomicInc (s : State) (line c : Nat) :
    countEdge line (atomicInc s c) = atomicInc (countEdge line s) c := by
  have hm := mappedChannel_atomicInc s c line
  cases h : mappedChannel s line with
  | none => rw [countEdge_of_unmapped h, countEdge_of_unmapped (hm.trans h)]
  | some d => rw [countEdge_of_mapped h, countEdge_of_mapped (hm.trans h), atomicInc_comm]

theorem countEdge_comm (s : State) (a b : Nat) : countEdge b (countEdge a s) = countEdge a (countEdge b s) := by
  have hm := mappedChannel_countEdge s b a
  cases h : mappedChannel s a with
  | none => rw [countEdge_of_unmapped h, countEdge_of_unmapped (hm.trans h)]
  | some c => rw [countEdge_of_mapped h, countEdge_of_mapped (hm.trans h), countEdge_atomicInc]

/-- No operation but `INIT_IN` writes the map (R14). -/
theorem exec_lineMap {i : Instr} {s t : State} (hi : i ≠ .initIn) (h : exec i s = .next t) : t.lineMap = s.lineMap := by
  cases exec_effect h with
  | inputsSetUp => exact absurd rfl hi
  | _ => simp

/-- An operation of the host reads no counter, unless it is a micro-step of `POLL` before the commit: on other counters it does the same
and leaves them as they are (R86). -/
theorem exec_withCnt {i : Instr} {s t : State} (cnt : List Nat) (hedge : ∀ line, i ≠ .onEdge line)
    (hpoll : i = .poll → ∃ snap ts, s.phase = .sampled snap ts) (h : exec i s = .next t) :
    exec i { s with cnt := cnt } = .next { t with cnt := cnt } := by
  cases i with
  | onEdge line => exact absurd rfl (hedge line)
  | initIn =>
    simp only [exec, execInitIn] at h ⊢
    split_ifs at h ⊢ <;> cases h <;> rfl
  | initOut =>
    simp only [exec, execInitOut] at h ⊢
    split_ifs at h ⊢ <;> cases h <;> rfl
  | poll =>
    obtain ⟨snap, ts, hp⟩ := hpoll rfl
    simp only [exec, execPoll, hp, pollCommit] at h ⊢
    split_ifs at h ⊢ <;> cases h <;> rfl
  | setFreq j hz =>
    have hidx : outputIndexOk { s with cnt := cnt } j = outputIndexOk s j := rfl
    simp only [exec, execSetFreq, applyHalfPeriod_eq, hidx] at h ⊢
    split_ifs at h ⊢ <;> cases h <;> rfl
  | getFreq j =>
    have hidx : inputIndexOk { s with cnt := cnt } j = inputIndexOk s j := rfl
    simp only [exec, execGetFreq, hidx] at h ⊢
    split_ifs at h ⊢ <;> cases h <;> rfl
  | getFlags j =>
    have hidx : inputIndexOk { s with cnt := cnt } j = inputIndexOk s j := rfl
    simp only [exec, execGetFlags, hidx] at h ⊢
    split_ifs at h ⊢ <;> cases h <;> rfl

/-- An edge may be counted before or after an operation that neither reads a counter nor writes the map (R49 (c)). -/
theorem exec_countEdge_comm {i : Instr} {s t : State} (line : Nat) (hedge : ∀ line, i ≠ .onEdge line) (hinit : i ≠ .initIn)
    (hpoll : i = .poll → ∃ snap ts, s.phase = .sampled snap ts) (h : exec i s = .next t) :
    exec i (countEdge line s) = .next (countEdge line t) := by
  obtain ⟨hcfg, hcnt, -⟩ := exec_host_frame i s t hedge h
  have hm : mappedChannel t line = mappedChannel s line := mappedChannel_congr hcfg (exec_lineMap hinit h) line
  cases hs : mappedChannel s line with
  | none => rwa [countEdge_of_unmapped hs, countEdge_of_unmapped (hm.trans hs)]
  | some c =>
    rw [countEdge_of_mapped hs, countEdge_of_mapped (hm.trans hs), atomicInc, exec_withCnt _ hedge hpoll h, atomicInc,
      hcfg, hcnt]

/-- Settles O13: both orders lead to the edge counted in the state after the other operation. -/
theorem incrementsCommute : Obligations.IncrementsCommute := by
  constructor
  · intro a b s t u ha hb
    rw [exec_onEdge] at ha hb
    cases ha
    cases hb
    exact ⟨countEdge b s, exec_onEdge b s, by rw [exec_onEdge, countEdge_comm]⟩
  · intro i line s t u hi hx hu
    rw [exec_onEdge] at hu
    cases hu
    refine ⟨countEdge line s, exec_onEdge line s, exec_countEdge_comm line ?_ ?_ ?_ hx⟩
    · rintro l rfl
      simp at hi
    · rintro rfl
      simp at hi
    · rintro rfl
      simpa using hi

end Sys2Proof.Machine

/-!
PROOF. The decoder, the encoder and the opcode map (spec/30_encoding.md R56 to R62). A command whose `RSV` is zero is its other three
fields, so each statement is one about `decodeFields` or about the six rows field by field.
-/

namespace Sys2Proof

/-! ### Decoding and encoding -/

/-- The operation codes that R60 leaves out (R61 (a)). -/
theorem unknownOpcode_iff : ∀ opc : Byte, (opc = 0 ∨ 7 ≤ opc) ↔
    opc ≠ 1 ∧ opc ≠ 2 ∧ opc ≠ 3 ∧ opc ≠ 4 ∧ opc ≠ 5 ∧ opc ≠ 6 := by decide

/-- Decoding takes a command's fields apart; an `OPC` outside the map selects nothing there either (R60, R61 (a)). -/
theorem decodeCommand_of_rsv_zero {w : Command} (h : w.rsv = 0) : decodeCommand w = decodeFields w.opc w.idx w.data := by
  unfold decodeCommand
  split_ifs with hopc
  · obtain ⟨h1, h2, h3, h4, h5, h6⟩ := (unknownOpcode_iff _).1 hopc
    simp only [decodeFields, h1, h2, h3, h4, h5, h6, if_false]
  · exact absurd h ‹_›
  · rfl

/-- Nothing decodes with a reserved bit set (R61 (b)). -/
theorem rsv_zero_of_decodeCommand {w : Command} {i : Instr} (h : decodeCommand w = .instr i) : w.rsv = 0 := by
  unfold decodeCommand at h
  split_ifs at h with hopc hrsv
  exact not_not.1 hrsv

@[simp] theorem decodeCommand_encodeFields (opc idx : Byte) (data : Word) :
    decodeCommand (encodeFields opc idx data) = decodeFields opc idx data := by
  simp [decodeCommand_of_rsv_zero]

/-- The operation is decoded exactly when the fields it does not use are zero (R61 (c), R62). -/
@[simp] theorem ifZero_eq_instr (unusedZero : Bool) (i i' : Instr) :
    Decoded.ifZero unusedZero i = .instr i' ↔ unusedZero = true ∧ i = i' := by
  cases unusedZero <;> simp [Decoded.ifZero]

/-- A word that decodes lays out what it decodes to: one case for each row of R60. -/
theorem encode_of_decodeFields {opc idx : Byte} {data : Word} {i : Instr} (h : decodeFields opc idx data = .instr i) :
    i.wellFormed = true ∧ encode i = .command (encodeFields opc idx data) := by
  have hidx : idx.toNat < 256 := idx.isLt
  unfold decodeFields at h
  split_ifs at h with h1 h2 h3 h4 h5 h6 <;>
    simp only [ifZero_eq_instr, Bool.and_eq_true, beq_iff_eq, Decoded.instr.injEq] at h
  · obtain ⟨⟨rfl, rfl⟩, rfl⟩ := h
    simp [Instr.wellFormed, encode, h1]
  · obtain ⟨⟨rfl, rfl⟩, rfl⟩ := h
    simp [Instr.wellFormed, encode, h2]
  · obtain ⟨⟨rfl, rfl⟩, rfl⟩ := h
    simp [Instr.wellFormed, encode, h3]
  · subst h
    simp [Instr.wellFormed, encode, h4, hidx]
  · obtain ⟨rfl, rfl⟩ := h
    simp [Instr.wellFormed, encode, h5, hidx]
  · obtain ⟨rfl, rfl⟩ := h
    simp [Instr.wellFormed, encode, h6, hidx]

/-- Settles O1: each operation's `OPC` leads the decoder to its own arm, and operands that fit their fields are read back. -/
theorem decodeEncodeRoundTrip : Obligations.DecodeEncodeRoundTrip := by
  intro i hw
  cases i with
  | onEdge line =>
    have hline : line < 256 := of_decide_eq_true hw
    simp [encode, decode, decodeEdge, Nat.mod_eq_of_lt hline]
  | initIn => simp [encode, decode, decodeFields]
  | initOut => simp [encode, decode, decodeFields]
  | poll => simp [encode, decode, decodeFields]
  | setFreq channel hz =>
    have hidx : channel < 256 := of_decide_eq_true hw
    simp [encode, decode, decodeFields, Nat.mod_eq_of_lt hidx]
  | getFreq channel =>
    have hidx : channel < 256 := of_decide_eq_true hw
    simp [encode, decode, decodeFields, Nat.mod_eq_of_lt hidx]
  | getFlags channel =>
    have hidx : channel < 256 := of_decide_eq_true hw
    simp [encode, decode, decodeFields, Nat.mod_eq_of_lt hidx]

/-- A command that decodes is the encoding of what it decodes to. -/
theorem encode_of_decodeCommand {w : Command} {i : Instr} (h : decodeCommand w = .instr i) :
    i.wellFormed = true ∧ encode i = .command w := by
  have hrsv := rsv_zero_of_decodeCommand h
  rw [decodeCommand_of_rsv_zero hrsv] at h
  simpa only [Command.eq_encodeFields w hrsv] using encode_of_decodeFields h

/-- Settles O2: an edge request is its line; a command has `RSV` zero and is the layout of its other fields. -/
theorem decodedWordsAreEncodings : Obligations.DecodedWordsAreEncodings := by
  intro p i h
  cases p with
  | edge request =>
    cases h
    exact ⟨decide_eq_true request.isLt, by simp [encode, decodeEdge]⟩
  | command w => exact encode_of_decodeCommand h

/-- Settles O5: the words are evaluated. -/
theorem syntaxTableWordsDecode : Obligations.SyntaxTableWordsDecode := by
  unfold Obligations.SyntaxTableWordsDecode
  decide

/-! ### The opcode map -/

/-- What R60 and R62 ask of the fields of a command that some row selects. -/
def Command.Legal (w : Command) : Prop :=
  w.rsv = 0 ∧
    (((w.opc = 1 ∨ w.opc = 2 ∨ w.opc = 3) ∧ w.idx = 0 ∧ w.data = 0) ∨ w.opc = 4 ∨
      ((w.opc = 5 ∨ w.opc = 6) ∧ w.data = 0))

/-- The rows select the legal commands, field by field: a mask covers a field or leaves it out. -/
theorem exists_selects_iff (w : Command) : (∃ r ∈ opcodeRows, r.selects w = true) ↔ w.Legal := by
  have h8 (b : Byte) : b &&& 255#8 = b := BitVec.and_allOnes
  have h16 (b : BitVec 16) : b &&& 65535#16 = b := BitVec.and_allOnes
  have h32 (b : Word) : b &&& 4294967295#32 = b := BitVec.and_allOnes
  simp only [opcodeRows, BitVec.ofNat_eq_ofNat, List.mem_cons, List.not_mem_nil, or_false, exists_eq_or_imp,
    ↓existsAndEq, true_and, OpcodeRow.selects_iff, Command.Legal, Command.opc, Command.idx, Command.data, Command.rsv,
    BitVec.reduceExtractLsb', BitVec.and_zero, h8, h16, h32]
  grind

/-- Every row's mask covers `OPC`. -/
theorem opc_of_selects {r : OpcodeRow} {w : Command} (hr : r ∈ opcodeRows) (h : r.selects w = true) :
    w.opc = r.pattern.opc := by
  have hmask : ∀ r ∈ opcodeRows, r.mask.opc = BitVec.allOnes 8 := by decide
  obtain ⟨hopc, -⟩ := (OpcodeRow.selects_iff r w).1 h
  rwa [hmask r hr, BitVec.and_allOnes] at hopc

/-- The word of a well-formed operation selects the operation's own row (R60). -/
theorem rowMatch : ∀ i : Instr, Laws.RowMatch.Statement i
  | .onEdge line => Laws.RowMatch.onEdge line
  | .initIn => Laws.RowMatch.initIn
  | .initOut => Laws.RowMatch.initOut
  | .poll => Laws.RowMatch.poll
  | .setFreq channel hz => Laws.RowMatch.setFreq channel hz
  | .getFreq channel => Laws.RowMatch.getFreq channel
  | .getFlags channel => Laws.RowMatch.getFlags channel

/-- A row index stands for a row. -/
theorem opcodeRows_of_rowIndex {i : Instr} {k : Nat} (h : i.rowIndex = some k) : ∃ r, opcodeRows[k]? = some r := by
  cases i <;> cases h <;> exact ⟨_, rfl⟩

/-- A command that decodes is selected by the row of its operation: it is that operation's word. -/
theorem selects_of_decodeCommand {w : Command} {i : Instr} (h : decodeCommand w = .instr i) :
    ∃ k r, i.rowIndex = some k ∧ opcodeRows[k]? = some r ∧ r.selects w = true := by
  obtain ⟨hwf, henc⟩ := encode_of_decodeCommand h
  have hrow := rowMatch i hwf
  rw [henc] at hrow
  cases hk : i.rowIndex with
  | none => simp [hk] at hrow
  | some k =>
    obtain ⟨r, hr⟩ := opcodeRows_of_rowIndex hk
    rw [hk] at hrow
    exact ⟨k, r, rfl, hr, (hrow k r hr).2 rfl⟩

/-- Settles O4: two rows that select a word have its `OPC`, and the rows' patterns differ there. -/
theorem commandSelectsItsOwnRow : Obligations.CommandSelectsItsOwnRow := by
  refine ⟨?_, fun w i => selects_of_decodeCommand⟩
  have hopc : opcodeRows.Pairwise (fun r r' => r.pattern.opc ≠ r'.pattern.opc) := by decide
  refine hopc.imp_of_mem fun hr hr' hne w ⟨h, h'⟩ => hne ?_
  rw [← opc_of_selects hr h, ← opc_of_selects hr' h']

/-! ### Illegal commands -/

theorem decodes_of_legal {w : Command} (h : w.Legal) : ∃ i, decodeCommand w = .instr i := by
  obtain ⟨hrsv, ⟨hopc | hopc | hopc, hidx, hdata⟩ | hopc | ⟨hopc | hopc, hdata⟩⟩ := h
  all_goals
    rw [decodeCommand_of_rsv_zero hrsv, decodeFields]
    simp [*]

/-- A command decodes exactly when it is legal: it is then selected by a row, and only legal commands are. -/
theorem decodes_iff_legal (w : Command) : (∃ i, decodeCommand w = .instr i) ↔ w.Legal := by
  refine ⟨fun ⟨i, h⟩ => ?_, decodes_of_legal⟩
  obtain ⟨k, r, -, hr, hsel⟩ := selects_of_decodeCommand h
  exact (exists_selects_iff w).1 ⟨r, List.mem_of_getElem? hr, hsel⟩

theorem illegal_iff_not_legal (w : Command) : (∃ why, decodeCommand w = .illegal why) ↔ ¬ w.Legal := by
  rw [← decodes_iff_legal]
  cases decodeCommand w <;> simp

/-- The cases (a), (b), (c) of R61 are what is left beside the legal commands. -/
theorem not_legal_iff (w : Command) : ¬ w.Legal ↔
    (w.opc = 0 ∨ 7 ≤ w.opc) ∨ w.rsv ≠ 0 ∨ ((w.opc = 1 ∨ w.opc = 2 ∨ w.opc = 3) ∧ (w.idx ≠ 0 ∨ w.data ≠ 0)) ∨
      ((w.opc = 5 ∨ w.opc = 6) ∧ w.data ≠ 0) := by
  rw [unknownOpcode_iff, Command.Legal]
  grind

/-- An illegal command between two commands is answered `ERR_ILLEGAL` and nothing else happens (R61, R141). -/
theorem step_command_of_illegal {s : Machine.State} {rest : List Event} {w : Command} {why : Illegal}
    (h : s.inputs = .command w :: rest) (hp : s.phase = .idle) (hw : decodeCommand w = .illegal why) :
    Machine.step s =
      .next { s with inputs := rest, response := some { status := .errIllegal, result := 0 } } := by
  rw [Machine.step_of_cons s _ _ h]
  simp only [Machine.agentStep, hp, if_true, Machine.commandStep, hw, Machine.popped_of_cons s _ _ h, Machine.raise_eq]

/-- Settles O3: a command is illegal when it is not legal, and the rows select the legal ones. -/
theorem illegalWordsSelectNoRow : Obligations.IllegalWordsSelectNoRow := by
  refine ⟨fun w => ⟨?_, ?_⟩, ⟨.unknownOpcode, by decide⟩, ?_⟩
  · rw [illegal_iff_not_legal, ← exists_selects_iff]
    simp
  · rw [illegal_iff_not_legal, not_legal_iff]
  · rintro s w rest hs hp ⟨why, hw⟩
    exact step_command_of_illegal hs hp hw

end Sys2Proof

/-!
PROOF. Words placed on a port (log 13), and the refusals of `SET_FREQ` (spec/30_encoding.md R64).
-/

namespace Sys2Proof.Machine

/-! ### Placing a word -/

/-- An edge request is placed so that the next step runs its `ON_EDGE`: a request of a mapped line is raised, and taken by that step (R76,
R78). -/
theorem step_placePortWord_edge {s : State} (hs : Shaped s) (request : Byte) :
    step (placePortWord s (.edge request)) = exec (.onEdge request.toNat) s := by
  cases hm : mappedChannel s request.toNat with
  | none =>
    simp only [placePortWord, hm]
    exact step_spurious_of_unmapped rfl hm
  | some c =>
    have hline : request.toNat < s.pend.length := by
      by_contra hge
      rw [hs.pend, not_lt] at hge
      simp [mappedChannel_of_le s _ hge] at hm
    have hpend : 0 < readAt 0 (s.pend.modify request.toNat (· + 1)) request.toNat := by
      simp [readAt_modify, hline]
    have hback : (s.pend.modify request.toNat (· + 1)).modify request.toNat (· - 1) = s.pend := by
      simp only [List.modify_modify_eq, Function.comp_def, Nat.add_sub_cancel]
      exact List.modify_id _ _
    simp only [placePortWord, hm]
    rw [step_serve_of_pending rfl hpend, hback]

/-- A word that is placed between two commands is run by the next step, on the state it was placed in. -/
theorem step_placePortWord {s : State} (hs : Shaped s) (hp : s.phase = .idle) {p : PortWord} {i : Instr}
    (h : decode p = .instr i) : step (placePortWord s p) = exec i s := by
  cases p with
  | edge request =>
    cases h
    exact step_placePortWord_edge hs request
  | command w =>
    rw [placePortWord, step_command_of_idle rfl rfl h, ← hp]

/-- A table word that decodes is some port word that does. -/
theorem portWord_of_decodeTableWord {nbits w : Nat} {i : Instr} (h : decodeTableWord nbits w = some i) :
    ∃ p, portWordOfBits nbits w = some p ∧ decode p = .instr i := by
  unfold decodeTableWord at h
  split at h
  · cases h
  · next p hp =>
    split at h <;> cases h
    exact ⟨p, hp, ‹_›⟩

/-- Settles O7: `withFetchWord` places the port word of the table word. -/
theorem placedWordIsRunNext : Obligations.PlacedWordIsRunNext := by
  intro s nbits w i hs hp h
  obtain ⟨p, hbits, hdecode⟩ := portWord_of_decodeTableWord h
  rw [State.withFetchWord, placeTableWord, hbits]
  exact step_placePortWord hs hp hdecode

/-! ### Refusals of `SET_FREQ` -/

/-- Settles O31: each check is reached when those before it have passed. -/
theorem setFreqChecksInOrder : Obligations.SetFreqChecksInOrder := by
  refine fun s j hz => ⟨fun hj => ?_, fun hj hv => ?_, fun hj hv ho => ?_⟩
  · simp [exec, execSetFreq, outputIndexOk, Nat.not_lt.2 hj, raise_eq]
  · simp [exec, execSetFreq, outputIndexOk, hj, hv, raise_eq]
  · simp [exec, execSetFreq, outputIndexOk, hj, hv, ho, raise_eq]

end Sys2Proof.Machine

/-!
PROOF. The uninterrupted `POLL` (spec/30_encoding.md R67, spec/42_frequency_estimator.md R86): how many micro-steps are left, where each of
them leads, the state after all `N + 2`, and the script line that brings them.
-/

namespace Sys2Proof.Machine

/-- There is an input channel (R6). -/
theorem n_pos_of_wf {c : Config} (h : c.wf = true) : 0 < c.n := by
  simp only [Config.wf, Bool.and_eq_true, decide_eq_true_eq] at h
  omega

/-! ### Successive micro-steps -/

/-- The first `a` of `a + b` micro-steps. -/
theorem pollSteps_add {a b : Nat} : ∀ {s t : State}, pollSteps a s = .next t → pollSteps (a + b) s = pollSteps b t := by
  induction a with
  | zero =>
    intro s t h
    cases h
    rw [Nat.zero_add]
  | succ a ih =>
    intro s t h
    rw [Nat.succ_add]
    simp only [pollSteps] at h ⊢
    split at h
    · exact ih h
    · cases h
    · cases h

theorem pollSteps_succ_of_next {k : Nat} {s t : State} (h : exec .poll s = .next t) :
    pollSteps (k + 1) s = pollSteps k t := by
  simp only [pollSteps, h]

@[simp] theorem pollSteps_one (s : State) : pollSteps 1 s = exec .poll s := by
  simp only [pollSteps]
  cases exec .poll s <;> rfl

theorem runSteps_succ_of_next {k : Nat} {s t : State} (h : step s = .next t) : runSteps (k + 1) s = runSteps k t := by
  simp only [runSteps, h]

/-! ### From the first load to the commit -/

/-- The accepting micro-step loads the first counter (R85, R86). -/
theorem exec_poll_of_idle {s : State} (hp : s.phase = .idle) (hi : s.inInit = true) (hn : 0 < s.cfg.n) :
    exec .poll s = .next { s with phase := .loading [readAt 0 s.cnt 0], response := none } := by
  simp [exec, execPoll, hp, hi, pollAdvance, hn, atomicLoad]

/-- With the first `m` counters loaded, `k` micro-steps load the `k` that are left, if nothing else steps between (R86). -/
theorem pollSteps_load {s : State} (hlen : s.cnt.length = s.cfg.n) (k : Nat) : ∀ m, m + k = s.cfg.n →
    pollSteps k { s with phase := .loading (s.cnt.take m) } = .next { s with phase := .loading s.cnt } := by
  induction k with
  | zero =>
    intro m hm
    rw [List.take_of_length_le (by omega)]
    rfl
  | succ k ih =>
    intro m hm
    have hlt : m < s.cnt.length := by omega
    have hload : exec .poll { s with phase := .loading (s.cnt.take m) } =
        .next { s with phase := .loading (s.cnt.take (m + 1)) } := by
      have htake : (s.cnt.take m).length = m := List.length_take_of_le hlt.le
      have hn : m < s.cfg.n := by omega
      simp [exec, execPoll, pollAdvance, htake, hn, atomicLoad, readAt_of_lt 0 s.cnt m hlt]
    rw [pollSteps_succ_of_next hload]
    exact ih (m + 1) (by omega)

/-- A commit gives `PHASE` and the response new values, whatever they are (R89, R94, R95). -/
theorem pollCommit_withScratch (s : State) (p : Phase) (r : Option Response) (snap : List Nat) (ts : Nat) :
    pollCommit { s with phase := p, response := r } snap ts = pollCommit s snap ts := rfl

/-- An uninterrupted `POLL` commits what its counters and the clock are when it begins (R86, R87). -/
theorem pollSteps_eq_pollCommit {s : State} (hw : s.cfg.wf = true) (hs : Shaped s) (hp : s.phase = .idle)
    (hi : s.inInit = true) :
    pollSteps (s.cfg.n + 2) s = pollCommit s s.cnt s.now := by
  have hn : 0 < s.cfg.n := n_pos_of_wf hw
  have hfirst : s.cnt.take 1 = [readAt 0 s.cnt 0] := by
    have h0 : 0 < s.cnt.length := by rw [hs.cnt]; exact hn
    rw [List.take_one, readAt_of_lt 0 s.cnt 0 h0, List.head?_eq_getElem?, List.getElem?_eq_getElem h0]
    rfl
  have hload := pollSteps_load (s := { s with response := none }) hs.cnt (s.cfg.n - 1) 1 (by dsimp only; omega)
  rw [show s.cfg.n + 2 = s.cfg.n - 1 + 2 + 1 by omega, pollSteps_succ_of_next (exec_poll_of_idle hp hi hn), ← hfirst,
    pollSteps_add hload]
  have hsample : exec .poll { s with phase := .loading s.cnt, response := none } =
      .next { s with phase := .sampled s.cnt s.now, response := none } := by
    simp [exec, execPoll, pollAdvance, hs.cnt, State.now]
  rw [pollSteps_succ_of_next hsample, pollSteps_one]
  exact pollCommit_withScratch s _ none s.cnt s.now

/-- Settles O21: the commit is throttled, or computes every channel from the counters. -/
theorem uninterruptedPollCompletes : Obligations.UninterruptedPollCompletes := by
  intro s hw hs hp hi
  rw [pollSteps_eq_pollCommit hw hs hp hi]
  by_cases hwin : elapsedUs s.cfg s.tlast s.now < windowUs
  · rw [pollCommit_of_throttled _ _ _ hwin]
    refine ⟨_, rfl, fun _ => ?_, fun h => absurd hwin (Nat.not_lt.2 h)⟩
    rw [← hp]
    rfl
  · rw [pollCommit_of_window _ _ _ (Nat.not_lt.1 hwin)]
    refine ⟨_, rfl, fun h => absurd h hwin, fun _ => ⟨?_, rfl, fun i hic => ⟨fun hneg => ?_, fun hpos => ?_⟩, ?_, ?_⟩⟩
    · exact tabulate_readAt 0 s.cnt _ hs.cnt
    · simp [hic, channelFreq, negativeDelta, hneg]
    · simp [hic, channelFreq, negativeDelta, pulses, Nat.not_lt.2 hpos]
    · cases anyNegativeDelta s s.cnt <;> simp [pollResult]
    · rw [← hp]
      rfl

/-! ### The script line -/

/-- How many micro-steps the `POLL` in progress has left (R86). -/
def pollRemaining (s : State) : Nat :=
  match s.phase with
  | .idle => 0
  | .loading snap => s.cfg.n - snap.length + 2
  | .sampled _ _ => 1

theorem pollRemaining_eq_zero {s : State} : pollRemaining s = 0 ↔ s.phase = .idle := by
  unfold pollRemaining
  split <;> simp [*]

/-- A micro-step answers a next state with one micro-step less to go. -/
theorem exec_poll_of_polling {s : State} (hp : s.phase ≠ .idle) :
    ∃ t, exec .poll s = .next t ∧ pollRemaining t + 1 = pollRemaining s := by
  cases h : s.phase with
  | idle => exact absurd h hp
  | loading snap =>
    refine ⟨pollAdvance s snap, by simp only [exec, execPoll, h], ?_⟩
    unfold pollAdvance
    split
    · simp only [pollRemaining, h, List.length_append, List.length_singleton]
      omega
    · simp only [pollRemaining, h]
      omega
  | sampled snap ts =>
    simp only [exec, execPoll, h]
    by_cases hwin : elapsedUs s.cfg s.tlast ts < windowUs
    · exact ⟨_, pollCommit_of_throttled _ _ _ hwin, by simp [pollRemaining, h]⟩
    · exact ⟨_, pollCommit_of_window _ _ _ (Nat.not_lt.1 hwin), by simp [pollRemaining, h]⟩

/-- A schedule of exactly the micro-steps that are left runs the `POLL` to its end, as `pollSteps` does with no schedule. -/
theorem runSteps_of_pollRemaining (k : Nat) : ∀ s : State, pollRemaining s = k → s.inputs = List.replicate k .pollStep →
    ∃ t, runSteps k s = .next t ∧ t.inputs = [] ∧ t.phase = .idle ∧ t.drawn = s.drawn ∧ t.pend = s.pend ∧
      pollSteps k { s with inputs := [] } = .next t := by
  induction k with
  | zero =>
    intro s hk hin
    refine ⟨s, rfl, hin, pollRemaining_eq_zero.1 hk, rfl, rfl, ?_⟩
    rw [← show s.inputs = [] from hin]
    rfl
  | succ k ih =>
    intro s hk hin
    have hp : s.phase ≠ .idle := fun h => by simp [pollRemaining_eq_zero.2 h] at hk
    obtain ⟨t, hexec, hrem⟩ := exec_poll_of_polling hp
    have hstep : step s = .next { t with inputs := List.replicate k .pollStep } := by
      rw [step_pollStep_of_polling hin hp]
      exact exec_poll_withInputs s t _ hexec
    obtain ⟨-, -, hpend, -, -, hdrawn⟩ := exec_host_frame .poll s t (by simp) hexec
    obtain ⟨u, hrun, hend, hidle, hud, hup, hpoll⟩ := ih { t with inputs := List.replicate k .pollStep }
      (by simpa [pollRemaining] using hrem.trans hk) rfl
    refine ⟨u, ?_, hend, hidle, hud.trans hdrawn, hup.trans hpend, ?_⟩
    · rw [runSteps_succ_of_next hstep, hrun]
    · rw [pollSteps_succ_of_next (exec_poll_withInputs s t [] hexec)]
      exact hpoll

/-- Settles O48: the command runs the accepting micro-step, and the rest of the line is the `N + 1` micro-steps that are then left. -/
theorem scriptedPollEndsTheRun : Obligations.ScriptedPollEndsTheRun := by
  intro s hw hs hp hi hpend hin
  have hn : 0 < s.cfg.n := n_pos_of_wf hw
  have hdecode : decodeCommand 0x0000000003000000 = .instr .poll := by decide
  have hfirst (inputs : List Event) := exec_poll_of_idle (s := { s with inputs := inputs }) hp hi hn
  obtain ⟨t, hrun, hend, hidle, hdrawn, hpend', hpoll⟩ := runSteps_of_pollRemaining (s.cfg.n + 1)
    { s with phase := .loading [readAt 0 s.cnt 0], response := none, inputs := List.replicate (s.cfg.n + 1) .pollStep }
    (by simp only [pollRemaining, List.length_singleton]; omega) rfl
  refine ⟨t, ⟨?_, hdrawn, hend, hidle, by rwa [hpend']⟩, ?_⟩
  · rw [runSteps_succ_of_next ((step_command_of_idle hin hp hdecode).trans (hfirst _))]
    exact hrun
  · rw [pollSteps_succ_of_next (hfirst [])]
    exact hpoll

end Sys2Proof.Machine

/-!
PROOF. A due sample and its one way into the channel's filter (spec/43_filter_boundary.md R116).
-/

namespace Sys2Proof.Machine

/-- A channel that is not due has no sample to take. -/
theorem takeSample_of_not_due {R : Type} (num : NumberType R) {j : Joined R} {i : Nat} (h : readAt false j.due i = false) :
    takeSample num j i = j := by
  simp [takeSample, h]

/-- Settles O56: taking the sample writes element `i` of three arrays, one of them the flag that it is due. -/
theorem dueSampleIsFilteredOnce : Obligations.DueSampleIsFilteredOnce := by
  intro R num j i hj
  refine ⟨fun hp hi hd => ⟨_, takeSample_of_due num j i hp hd hi, ?_, rfl, ?_, ?_, ?_, ?_, ?_⟩, takeSample_of_not_due num⟩
  · simp [exec, execGetFreq, inputIndexOk, hi, succeed_eq]
  · simp [readAt_set, hj.slots, hi]
  · simp [readAt_set, hj.filtered, hi]
  · simp [readAt_set, hj.due, hi]
  · exact takeSample_of_not_due num (by simp [readAt_set, hj.due, hi])
  · intro k hk
    simp [readAt_set, Ne.symm hk]

end Sys2Proof.Machine

/-!
PROOF. The conservation of edges (spec/41_edge_counter.md R84). A counter's lead over its baseline is kept in the integers modulo `2^CW`,
where an increment that wraps adds one like any other. One lemma per agent says what its step makes of the lead; only a served
request and a computing commit change it, and they change it by what the bookkeeping of `tally` records.
-/

namespace Sys2Proof.Machine

/-! ### The bookkeeping and the schedule -/

/-- A schedule that has its next event is not refilled. -/
@[simp] theorem withEvent_withEvent (s : State) : s.withEvent.withEvent = s.withEvent := by
  obtain ⟨e, rest, hin, -⟩ := step_cases s
  exact withEvent_of_cons _ e rest hin

theorem step_withEvent (s : State) : step s.withEvent = step s := by
  simp only [step, machineStep, withEvent_withEvent]

@[simp] theorem withEvent_cfg (s : State) : s.withEvent.cfg = s.cfg := by rw [withEvent_frame]
@[simp] theorem withEvent_cnt (s : State) : s.withEvent.cnt = s.cnt := by rw [withEvent_frame]
@[simp] theorem withEvent_prev (s : State) : s.withEvent.prev = s.prev := by rw [withEvent_frame]
@[simp] theorem withEvent_pend (s : State) : s.withEvent.pend = s.pend := by rw [withEvent_frame]
@[simp] theorem withEvent_lineMap (s : State) : s.withEvent.lineMap = s.lineMap := by rw [withEvent_frame]
@[simp] theorem withEvent_tlast (s : State) : s.withEvent.tlast = s.tlast := by rw [withEvent_frame]
@[simp] theorem withEvent_phase (s : State) : s.withEvent.phase = s.phase := by rw [withEvent_frame]

theorem edgesCounted_withEvent (i : Nat) (s : State) : edgesCounted i s.withEvent = edgesCounted i s := by
  have hm (line) : mappedChannel s.withEvent line = mappedChannel s line := mappedChannel_congr (by simp) (by simp) line
  simp only [edgesCounted, withEvent_withEvent, withEvent_pend, hm]

theorem pulsesReported_withEvent (i : Nat) (s : State) : pulsesReported i s.withEvent = pulsesReported i s := by
  simp only [pulsesReported, pulses, withEvent_withEvent, withEvent_phase, withEvent_cfg, withEvent_tlast, withEvent_prev]

theorem breaksCount_withEvent (i : Nat) (s : State) : breaksCount i s.withEvent = breaksCount i s := by
  simp only [breaksCount, negativeDelta, withEvent_withEvent, withEvent_phase, withEvent_cfg, withEvent_tlast,
    withEvent_prev]

/-- The first step of a run with its bookkeeping, and the rest of it. -/
theorem tally_succ {i k e p : Nat} {s u : State} (h : tally i (k + 1) s = some (u, e, p)) :
    ∃ t e' p', breaksCount i s = false ∧ step s = .next t ∧ tally i k t = some (u, e', p') ∧
      e = edgesCounted i s + e' ∧ p = pulsesReported i s + p' := by
  rw [tally] at h
  split_ifs at h with hb
  split at h
  · next t hstep =>
    split at h
    · next v e' p' ht =>
      cases h
      exact ⟨t, e', p', by simpa using hb, hstep, ht, rfl, rfl⟩
    · cases h
  · cases h
  · cases h

/-- Only a step that serves a request counts an edge. -/
theorem edgesCounted_of_not_serve {e : Event} {s : State} {rest : List Event} (i : Nat) (hin : s.inputs = e :: rest)
    (he : ∀ b, e ≠ .serve b) : edgesCounted i s = 0 := by
  simp only [edgesCounted, withEvent_of_cons s _ _ hin, hin]
  cases e with
  | serve b => exact absurd rfl (he b)
  | _ => rfl

/-- Only a step of the host reports pulses. -/
theorem pulsesReported_of_not_host {e : Event} {s : State} {rest : List Event} (i : Nat) (hin : s.inputs = e :: rest)
    (he : ¬ ((∃ w, e = .command w) ∨ e = .pollStep)) : pulsesReported i s = 0 := by
  unfold pulsesReported
  rw [withEvent_of_cons s _ _ hin, hin]
  split
  · next w _ _ h =>
    cases h
    exact absurd (.inl ⟨w, rfl⟩) he
  · next h =>
    cases h
    exact absurd (.inr rfl) he
  · rfl

/-! ### The lead of a counter -/

/-- What the counter of channel `i` is ahead of its baseline, modulo `m` (R84). -/
def counterLead (m i : Nat) (s : State) : ZMod m :=
  ((readAt 0 s.cnt i : Nat) : ZMod m) - ((readAt 0 s.prev i : Nat) : ZMod m)

theorem counterLead_congr {s t : State} (m i : Nat) (hcnt : t.cnt = s.cnt) (hprev : t.prev = s.prev) :
    counterLead m i t = counterLead m i s := by
  simp only [counterLead, hcnt, hprev]

/-- An edge of the channel's line adds one to the lead, whether or not the counter wraps (R45, R77). -/
theorem counterLead_countEdge {m i : Nat} {s : State} (hm : m = 2 ^ s.cfg.cw) (hi : i < s.cnt.length) (line : Nat) :
    counterLead m i (countEdge line s) = counterLead m i s + if mappedChannel s line = some i then 1 else 0 := by
  cases h : mappedChannel s line with
  | none => simp [countEdge_of_unmapped h]
  | some c =>
    rw [countEdge_of_mapped h, counterLead, counterLead, atomicInc_prev]
    by_cases hc : c = i
    · subst hc
      rw [readAt_atomicInc_same hi, ← hm, ZMod.natCast_mod]
      push_cast
      simp only [if_true]
      ring
    · rw [readAt_atomicInc_other (Ne.symm hc)]
      simp [hc]

/-- The interrupt agent's step adds to the lead the edge it counts (R76, R77). -/
theorem counterLead_serve {m i : Nat} {s t : State} {request : Byte} {rest : List Event} (hm : m = 2 ^ s.cfg.cw)
    (hi : i < s.cnt.length) (hin : s.inputs = .serve request :: rest) (h : step s = .next t) :
    counterLead m i t = counterLead m i s + edgesCounted i s := by
  by_cases hp : 0 < readAt 0 s.pend request.toNat
  · rw [step_serve_of_pending hin hp, exec_onEdge] at h
    cases h
    have hedges : edgesCounted i s = if mappedChannel s request.toNat = some i then 1 else 0 := by
      simp [edgesCounted, withEvent_of_cons s _ _ hin, hin, hp]
    rw [hedges, Nat.cast_ite, Nat.cast_one, Nat.cast_zero]
    exact counterLead_countEdge (s := { s with inputs := rest, pend := s.pend.modify request.toNat (· - 1) }) hm hi _
  · have ht : t = s.popped := by
      rw [step_of_cons s _ _ hin, agentStep, serveStep, State.popped_pend, if_neg hp] at h
      cases h
      rfl
    rw [ht, counterLead_congr (s := s) (t := s.popped) m i rfl rfl]
    simp [edgesCounted, withEvent_of_cons s _ _ hin, hin, hp]

/-! ### The baseline -/

/-- Only a commit writes the baselines (R94). -/
theorem exec_prev {i : Instr} {s t : State} (hp : ∀ snap ts, s.phase ≠ .sampled snap ts) (h : exec i s = .next t) :
    t.prev = s.prev := by
  cases exec_effect h with
  | pollComputed snap ts hs => exact absurd hs (hp snap ts)
  | _ => simp

theorem hostStep_prev {e : Event} {s t : State} (he : (∃ w, e = .command w) ∨ e = .pollStep)
    (hp : ∀ snap ts, s.phase ≠ .sampled snap ts) (h : agentStep e s = .next t) : t.prev = s.prev := by
  obtain ⟨r, hr, rfl | rfl | ⟨j, -, hx⟩⟩ := hostStep_cases he h
  · rw [hr]
  · rw [hr]; rfl
  · have hrp : r.prev = s.prev := by rw [hr]
    exact (exec_prev (by rw [hr]; exact hp) hx).trans hrp

/-- Once the clock is sampled the host's step is the commit, on the schedule `r` that it leaves (R86). -/
theorem hostStep_of_sampled {e : Event} {s : State} {snap : List Nat} {ts : Nat}
    (he : (∃ w, e = .command w) ∨ e = .pollStep) (hp : s.phase = .sampled snap ts) :
    ∃ r, r = { s with inputs := r.inputs } ∧ agentStep e s = pollCommit r snap ts := by
  rcases he with ⟨w, rfl⟩ | rfl
  · exact ⟨s, rfl, by simp [agentStep, hp, exec, execPoll]⟩
  · exact ⟨s.popped, rfl, by simp [agentStep, pollStep, hp, exec, execPoll]⟩

/-- A commit with no negative delta moves the baseline of the channel by the pulses it reports, none when it is throttled (R89, R90,
R94). -/
theorem readAt_prev_pollCommit {i ts : Nat} {s t : State} {snap : List Nat} (hi : i < s.cfg.n)
    (hneg : windowUs ≤ elapsedUs s.cfg s.tlast ts → negativeDelta s snap i = false) (h : pollCommit s snap ts = .next t) :
    readAt 0 t.prev i =
      readAt 0 s.prev i + if elapsedUs s.cfg s.tlast ts < windowUs then 0 else pulses s snap i := by
  by_cases hw : elapsedUs s.cfg s.tlast ts < windowUs
  · rw [pollCommit_of_throttled s snap ts hw] at h
    cases h
    simp [hw]
  · have hle : readAt 0 s.prev i ≤ readAt 0 snap i := by
      simpa [negativeDelta] using hneg (Nat.not_lt.1 hw)
    rw [pollCommit_of_window s snap ts (Nat.not_lt.1 hw)] at h
    cases h
    simp [hi, hw, pulses, hle]

/-- A step of the host that does not break the count moves the baseline of the channel by the pulses it reports (R90, R94). -/
theorem hostStep_readAt_prev {e : Event} {i : Nat} {s t : State} {rest : List Event}
    (he : (∃ w, e = .command w) ∨ e = .pollStep) (hi : i < s.cfg.n) (hin : s.inputs = e :: rest)
    (hb : breaksCount i s = false) (h : agentStep e s = .next t) :
    readAt 0 t.prev i = readAt 0 s.prev i + pulsesReported i s := by
  by_cases hp : ∃ snap ts, s.phase = .sampled snap ts
  · obtain ⟨snap, ts, hp⟩ := hp
    obtain ⟨r, hr, hcommit⟩ := hostStep_of_sampled he hp
    have hpulses : pulsesReported i s =
        if elapsedUs s.cfg s.tlast ts < windowUs then 0 else pulses s snap i := by
      rcases he with ⟨w, rfl⟩ | rfl <;> simp [pulsesReported, withEvent_of_cons s _ _ hin, hin, hp]
    have hneg : windowUs ≤ elapsedUs s.cfg s.tlast ts → negativeDelta s snap i = false := by
      rcases he with ⟨w, rfl⟩ | rfl <;> simpa [breaksCount, withEvent_of_cons s _ _ hin, hin, hp] using hb
    rw [hcommit, hr] at h
    rw [hpulses]
    exact readAt_prev_pollCommit (s := { s with inputs := r.inputs }) hi hneg h
  · have hp' : ∀ snap ts, s.phase ≠ .sampled snap ts := fun snap ts hs => hp ⟨snap, ts, hs⟩
    have hpulses : pulsesReported i s = 0 := by
      cases hs : s.phase with
      | sampled snap ts => exact absurd hs (hp' snap ts)
      | _ => simp [pulsesReported, hs]
    rw [hostStep_prev he hp' h, hpulses, Nat.add_zero]

theorem counterLead_host {e : Event} {m i : Nat} {s t : State} {rest : List Event}
    (he : (∃ w, e = .command w) ∨ e = .pollStep) (hi : i < s.cfg.n) (hin : s.inputs = e :: rest)
    (hb : breaksCount i s = false) (h : agentStep e s = .next t) :
    counterLead m i t + pulsesReported i s = counterLead m i s := by
  have hcnt : t.cnt = s.cnt := (hostStep_frame he h).2.1
  rw [counterLead, counterLead, hostStep_readAt_prev he hi hin hb h, hcnt]
  push_cast
  ring

/-! ### Runs -/

/-- Every step changes the lead by the edges it counts less the pulses it reports (R84). -/
theorem counterLead_step_of_cons {e : Event} {m i : Nat} {s t : State} {rest : List Event} (hs : Inv s)
    (hm : m = 2 ^ s.cfg.cw) (hi : i < s.cfg.n) (hin : s.inputs = e :: rest) (hb : breaksCount i s = false)
    (h : step s = .next t) :
    counterLead m i t + pulsesReported i s = counterLead m i s + edgesCounted i s := by
  have hlen : i < s.cnt.length := hs.shaped.cnt ▸ hi
  have hagent := h
  rw [step_of_cons s e rest hin] at hagent
  have host (he : (∃ w, e = .command w) ∨ e = .pollStep) :
      counterLead m i t + pulsesReported i s = counterLead m i s + edgesCounted i s := by
    have hserve : ∀ b, e ≠ .serve b := by rcases he with ⟨w, rfl⟩ | rfl <;> simp
    rw [counterLead_host he hi hin hb hagent, edgesCounted_of_not_serve i hin hserve, Nat.cast_zero, add_zero]
  have other (hserve : ∀ b, e ≠ .serve b) (hhost : ¬ ((∃ w, e = .command w) ∨ e = .pollStep))
      (hcnt : t.cnt = s.cnt) (hprev : t.prev = s.prev) :
      counterLead m i t + pulsesReported i s = counterLead m i s + edgesCounted i s := by
    rw [edgesCounted_of_not_serve i hin hserve, pulsesReported_of_not_host i hin hhost, counterLead_congr m i hcnt hprev]
  cases e with
  | tick => cases hagent; exact other (by simp) (by simp) rfl rfl
  | transition line edge => cases hagent; exact other (by simp) (by simp) (by simp) (by simp)
  | spurious request =>
    rw [agentStep, spuriousStep_eq] at hagent
    cases hagent
    exact other (by simp) (by simp) rfl rfl
  | serve request =>
    rw [counterLead_serve hm hlen hin h, pulsesReported_of_not_host i hin (by simp), Nat.cast_zero, add_zero]
  | command w => exact host (.inl ⟨w, rfl⟩)
  | pollStep => exact host (.inr rfl)
  | reset => simp [breaksCount, withEvent_of_cons s _ _ hin, hin] at hb

/-- So it is when the schedule is used up and the step is that of a free event. -/
theorem counterLead_step {m i : Nat} {s t : State} (hs : Inv s) (hm : m = 2 ^ s.cfg.cw) (hi : i < s.cfg.n)
    (hb : breaksCount i s = false) (h : step s = .next t) :
    counterLead m i t + pulsesReported i s = counterLead m i s + edgesCounted i s := by
  obtain ⟨e, rest, hin, -⟩ := step_cases s
  have hdrawn : Inv s.withEvent := hs.frame (by rw [withEvent_frame])
  have hlead := counterLead_step_of_cons (m := m) (i := i) (t := t) hdrawn (by simpa using hm) (by simpa using hi) hin
    (by rwa [breaksCount_withEvent]) (by rwa [step_withEvent])
  rwa [pulsesReported_withEvent, edgesCounted_withEvent, counterLead_congr m i (withEvent_cnt s) (withEvent_prev s)]
    at hlead

/-- No step writes the parameters (R33). -/
theorem step_cfg {s t : State} (h : step s = .next t) : t.cfg = s.cfg := by
  obtain ⟨e, rest, -, heq⟩ := step_cases s
  rw [heq] at h
  rw [agentStep_cfg h, withEvent_cfg]

/-- Over a run the lead changes by the edges counted less the pulses reported; the invariant and the parameters stay (R84). -/
theorem counterLead_tally {m i : Nat} (k : Nat) : ∀ {s t : State} {e p : Nat}, Inv s → m = 2 ^ s.cfg.cw → i < s.cfg.n →
    tally i k s = some (t, e, p) →
    Inv t ∧ t.cfg = s.cfg ∧ counterLead m i t + p = counterLead m i s + e := by
  induction k with
  | zero =>
    intro s t e p hs _ _ h
    cases h
    exact ⟨hs, rfl, rfl⟩
  | succ k ih =>
    intro s t e p hs hm hi h
    obtain ⟨r, e', p', hb, hstep, hrun, rfl, rfl⟩ := tally_succ h
    have hcfg := step_cfg hstep
    have hone := counterLead_step hs hm hi hb hstep
    obtain ⟨hinv, hcfg', hrest⟩ := ih (registerInvariantKept s r hs hstep) (hcfg ▸ hm) (hcfg ▸ hi) hrun
    refine ⟨hinv, hcfg'.trans hcfg, ?_⟩
    push_cast
    linear_combination hone + hrest

/-- The lead of a baseline that fits the counter's width, as R84 writes it. -/
theorem natCast_lead {m i : Nat} {s : State} (h : readAt 0 s.prev i < m) :
    (((readAt 0 s.cnt i + m - readAt 0 s.prev i) % m : Nat) : ZMod m) = counterLead m i s := by
  rw [ZMod.natCast_mod, Nat.cast_sub (by omega), Nat.cast_add, ZMod.natCast_self, add_zero, counterLead]

/-- Settles O24: the run begins with no lead, so what it ends with is the edges less the pulses. -/
theorem edgesAreConserved : Obligations.EdgesAreConserved := by
  intro k i e p s t hs hi hbase h
  obtain ⟨hinv, hcfg, hlead⟩ := counterLead_tally k hs rfl hi h
  have hprev : readAt 0 t.prev i < 2 ^ s.cfg.cw := by
    rw [← hcfg]
    exact readAt_lt hinv.fits.prev (by positivity) i
  have hzero : counterLead (2 ^ s.cfg.cw) i s = 0 := by rw [counterLead, hbase, sub_self]
  rw [← ZMod.natCast_eq_natCast_iff', Nat.cast_add, natCast_lead hprev]
  linear_combination hlead + hzero

end Sys2Proof.Machine

/-!
PROOF. The edge detector, the served request and the setup of the input side (spec/41_edge_counter.md R75 to R82), and what is left of a
side whose setup fails (spec/60_exceptions.md R144).
-/

namespace Sys2Proof.Machine

/-! ### Requests -/

/-- A transition is the edge detector's matter (R75). -/
theorem step_transition {s : State} {rest : List Event} {line : Nat} {d : Edge} (h : s.inputs = .transition line d :: rest) :
    step s = .next (edgeDetect line d { s with inputs := rest }) := by
  rw [step_of_cons s _ _ h, agentStep, popped_of_cons s _ _ h]

/-- `PEND` after a transition: one more request of the line, when it is enabled and the direction is its own (R75). -/
theorem readAt_pend_edgeDetect {s : State} {line : Nat} (hl : line < s.pend.length) (d : Edge) (k : Nat) :
    readAt 0 (edgeDetect line d s).pend k = readAt 0 s.pend k +
      if line = k ∧ readAt false s.irqEn line = true ∧ d = readAt .fall s.irqPol line then 1 else 0 := by
  unfold edgeDetect
  by_cases hc : readAt false s.irqEn line = true ∧ d = readAt .fall s.irqPol line
  · by_cases hk : line = k
    · subst hk
      simp [hc, readAt_modify, hl]
    · simp [hc, readAt_modify, hk]
  · simp [hc]

/-- A transition that is not counted raises nothing (R75). -/
theorem pend_edgeDetect_of_not_configured {s : State} {line : Nat} {d : Edge}
    (h : ¬ (readAt false s.irqEn line = true ∧ d = readAt .fall s.irqPol line)) :
    (edgeDetect line d s).pend = s.pend := by
  rw [edgeDetect, if_neg h]

/-- Settles O9: the step is the edge detector's, which modifies one element of `PEND` or nothing. -/
theorem transitionRaisesConfiguredRequest : Obligations.TransitionRaisesConfiguredRequest := by
  intro s rest l d hs hl hin
  have hpend (k : Nat) := readAt_pend_edgeDetect (s := { s with inputs := rest }) (hs.pend ▸ hl) d k
  refine ⟨_, step_transition hin, fun hc => ?_, fun hc => ?_, fun k hk => ?_, edgeDetect_frame ..⟩
  · rw [hpend l, if_pos ⟨rfl, hc⟩]
  · exact pend_edgeDetect_of_not_configured (s := { s with inputs := rest }) hc
  · rw [hpend k, if_neg fun h => hk h.1.symm, Nat.add_zero]

/-- `ON_EDGE` writes `CNT` only (R77). -/
theorem countEdge_frame (line : Nat) (s : State) : countEdge line s = { s with cnt := (countEdge line s).cnt } := by
  unfold countEdge
  split <;> rfl

/-- Settles O10: the step takes the request and is `ON_EDGE` of its line. -/
theorem serveTakesOneRequest : Obligations.ServeTakesOneRequest := by
  intro s rest b hs hin hpos
  refine ⟨countEdge b.toNat { s with inputs := rest, pend := s.pend.modify b.toNat (· - 1) }, ?_, ?_, ?_, ?_, ?_, ?_⟩
  · rw [step_serve_of_pending hin hpos, exec_onEdge]
  · have hl : b.toNat < s.pend.length := by
      by_contra h
      rw [readAt_of_length_le 0 s.pend _ (by omega)] at hpos
      omega
    rw [countEdge_frame]
    simp only [readAt_modify, hl, and_self, if_true]
    omega
  · intro k hk
    rw [countEdge_frame]
    simp [readAt_modify, Ne.symm hk]
  · intro c hm hc
    rw [countEdge_of_mapped (by exact hm)]
    exact readAt_atomicInc_same (hs.cnt ▸ hc)
  · intro c hm
    cases h : mappedChannel s b.toNat with
    | none => rw [countEdge_of_unmapped (by exact h)]
    | some d =>
      rw [countEdge_of_mapped (by exact h)]
      exact readAt_atomicInc_other fun hcd => hm (hcd ▸ h)
  · rw [countEdge_frame]

/-! ### `INIT_IN` -/

/-- `InputConfigValid` is range and injectivity (R82). -/
theorem inputConfigValid_iff (c : Config) : inputConfigValid c = true ↔
    (∀ i, i < c.n → c.line i < c.l) ∧ (∀ i k, i < c.n → k < c.n → i ≠ k → c.line i ≠ c.line k) := by
  simp only [inputConfigValid, List.all_eq_true, List.mem_range, Bool.and_eq_true, decide_eq_true_eq]
  constructor
  · exact fun h => ⟨fun i hi => (h i hi).1, fun i k hi hk hne heq => hne ((h i hi).2 k hk heq)⟩
  · exact fun ⟨hrange, hinj⟩ i hi => ⟨hrange i hi, fun k hk heq => by_contra fun hne => hinj i k hi hk hne heq⟩

/-- A second `INIT_IN` is refused (R80). -/
theorem exec_initIn_of_inInit {s : State} (h : s.inInit = true) :
    exec .initIn s = .next { s with response := some { status := .errAlreadyInit, result := 0 } } := by
  simp [exec, execInitIn, h, raise_eq]

/-- `INIT_IN` is refused where the parameters or the hardware do not allow setup (R82, log 10). -/
theorem exec_initIn_of_setup_fails {s : State} (h : s.inInit = false) (hok : inputSetupOk s.cfg = false) :
    exec .initIn s = .next { s with response := some { status := .errConfig, result := 0 } } := by
  simp [exec, execInitIn, h, hok, raise_eq]

/-- Settles O17: each refusal is a branch of `INIT_IN`. -/
theorem initInRefusals : Obligations.InitInRefusals :=
  ⟨inputConfigValid_iff, fun _ =>
    ⟨exec_initIn_of_inInit, fun h hv => exec_initIn_of_setup_fails h (by simp [inputSetupOk, hv])⟩⟩

/-- Settles O16: with `LINE_OF` injective and in range, each of the three setup loops writes its value at every configured line and
nothing elsewhere. -/
theorem initInBuildsTheMap : Obligations.InitInBuildsTheMap := by
  intro s hs hi hok
  have hvalid : inputConfigValid s.cfg = true := by
    simp only [inputSetupOk, Bool.and_eq_true] at hok
    exact hok.1
  obtain ⟨hrange, hinj⟩ := (inputConfigValid_iff s.cfg).1 hvalid
  obtain ⟨-, hmap, hmap'⟩ := foldl_set none s.cfg.line some s.cfg.n (List.replicate s.cfg.l none) hinj (by simpa using hrange)
  obtain ⟨-, hen, hen'⟩ := foldl_set false s.cfg.line (fun _ => true) s.cfg.n s.irqEn hinj (by simpa [hs.irqEn] using hrange)
  obtain ⟨-, hpol, hpol'⟩ := foldl_set .fall s.cfg.line s.cfg.polarity s.cfg.n s.irqPol hinj
    (by simpa [hs.irqPol] using hrange)
  refine ⟨_, exec_initIn_eq s hi hok, fun i hin => ⟨hmap i hin, hen i hin, hpol i hin⟩,
    fun l hl => ⟨?_, hen' l hl, hpol' l hl⟩,
    rfl, rfl, rfl, rfl⟩
  have hnone := hmap' l hl
  rwa [readAt_replicate, ite_self] at hnone

/-! ### Failed setup -/

/-- An input side that cannot be set up is not set up (R144). -/
theorem Inv.not_inInit_of_setup_fails {s : State} (h : Inv s) (hok : inputSetupOk s.cfg = false) : s.inInit = false := by
  by_contra hi
  have hside := h.inputSide
  rw [InputSideOk, if_pos (by simpa using hi), hok] at hside
  exact absurd hside.1 (by simp)

/-- An output side that cannot be set up is not set up (R144). -/
theorem Inv.not_outInit_of_setup_fails {s : State} (h : Inv s) (hok : outputSetupOk s.cfg = false) : s.outInit = false := by
  by_contra ho
  have hside := h.outputSide
  rw [OutputSideOk, if_pos (by simpa using ho), hok] at hside
  exact absurd hside.1 (by simp)

/-- `POLL` is refused before `INIT_IN` (R85). -/
theorem exec_poll_of_not_inInit {s : State} (hp : s.phase = .idle) (hi : s.inInit = false) :
    exec .poll s = .next { s with response := some { status := .errNotInit, result := 0 } } := by
  simp [exec, execPoll, hp, hi, raise_eq]

/-- `INIT_OUT` is refused where the parameters or the hardware do not allow setup (R122, log 10). -/
theorem exec_initOut_of_setup_fails {s : State} (h : s.outInit = false) (hok : outputSetupOk s.cfg = false) :
    exec .initOut s = .next { s with response := some { status := .errConfig, result := 0 } } := by
  simp [exec, execInitOut, h, hok, raise_eq]

/-- Settles O42: under the invariant a side that cannot be set up is still in its reset state, where its operations are refused. -/
theorem failedSetupIsFatalToItsSide : Obligations.FailedSetupIsFatalToItsSide := by
  intro s h
  obtain ⟨-, hin, -⟩ := (inv_iff s).1 h
  constructor
  · intro hok
    have hi := h.not_inInit_of_setup_fails hok
    refine ⟨exec_initIn_of_setup_fails hi hok, exec_poll_of_not_inInit (hin.idle_of_not_inInit hi) hi, fun l => ?_⟩
    obtain ⟨-, hen, -⟩ := hin.of_not_inInit hi
    rw [hen, readAt_replicate, ite_self]
  · intro hok
    have ho := h.not_outInit_of_setup_fails hok
    exact ⟨exec_initOut_of_setup_fails ho hok, fun j hz hj hv => (setFreqChecksInOrder s j hz).2.2 hj hv ho⟩

end Sys2Proof.Machine

/-!
PROOF. The edges between two uninterrupted computing `POLL`s (spec/41_edge_counter.md R83, spec/42_frequency_estimator.md R99): the first
`POLL` moves the baselines to the counters and the window's start to the clock, the edges move one counter, the ticks the clock.
-/

namespace Sys2Proof.Machine

/-- The clock difference is the true elapsed time while that is less than `2^TW` (R88). -/
theorem elapsedUs_of_lt {c : Config} {d : Nat} (ref : Nat) (hd : d < 2 ^ c.tw) :
    elapsedUs c (ref % 2 ^ c.tw) ((ref + d) % 2 ^ c.tw) = d := by
  have hmod : (((ref + d : Nat) : Int) % ((2 ^ c.tw : Nat) : Int) - (ref : Int) % ((2 ^ c.tw : Nat) : Int)) %
      ((2 ^ c.tw : Nat) : Int) = d := by
    rw [← Int.sub_emod, Nat.cast_add, add_sub_cancel_left]
    exact Int.emod_eq_of_lt (by positivity) (by exact_mod_cast hd)
  unfold elapsedUs
  rw [Int.natCast_mod, Int.natCast_mod, hmod, Int.toNat_natCast]

/-- Any number of micro-steps keeps the invariant. -/
theorem Inv.kept_by_pollSteps {k : Nat} : ∀ {s t : State}, Inv s → pollSteps k s = .next t → Inv t := by
  induction k with
  | zero =>
    intro s t h hrun
    cases hrun
    exact h
  | succ k ih =>
    intro s t h hrun
    simp only [pollSteps] at hrun
    split at hrun
    · next r hexec => exact ih (h.kept_by_exec hexec) hrun
    · cases hrun
    · cases hrun

/-- Any number of ticks keeps the invariant. -/
theorem Inv.kept_by_ticks (k : Nat) : ∀ {s : State}, Inv s → Inv (ticks k s) := by
  induction k with
  | zero => exact fun h => h
  | succ k ih => exact fun h => ih h.kept_by_tick

/-- Any number of edges of one line keeps the invariant. -/
theorem Inv.kept_by_edges {line : Nat} (k : Nat) : ∀ {s t : State}, Inv s → edges line k s = .next t → Inv t := by
  induction k with
  | zero =>
    intro s t h hrun
    cases hrun
    exact h
  | succ k ih =>
    intro s t h hrun
    simp only [edges, exec_onEdge] at hrun
    exact ih (h.kept_by_exec (exec_onEdge line s)) hrun

/-- After an uninterrupted computing `POLL` the window starts at the clock and every baseline is at its counter; the counters, the map, the
clock, the parameters and `PHASE` are as before (R86, R94). -/
theorem computingPoll_baselines {s t : State} (h : Inv s) (hp : s.phase = .idle) (hi : s.inInit = true)
    (hwin : 1000000 ≤ elapsedUs s.cfg s.tlast s.now) (hrun : pollSteps (s.cfg.n + 2) s = .next t) :
    t = { s with freq := t.freq, ovf := t.ovf, prev := s.cnt, tlast := s.now, response := t.response } := by
  obtain ⟨t', hrun', -, hcompute⟩ := uninterruptedPollCompletes s h.cfg h.shaped hp hi
  cases hrun.symm.trans hrun'
  obtain ⟨hprev, htlast, -, -, hframe⟩ := hcompute hwin
  rw [hframe, hprev, htlast]

/-- An uninterrupted `POLL` whose window is long enough, with the counter of channel `c` ahead of its baseline by `k`, reports those `k` pulses
(R90, R94). -/
theorem computingPoll_pulses {s : State} (h : Inv s) (hp : s.phase = .idle) (hi : s.inInit = true) {c k : Nat}
    (hc : c < s.cfg.n) (hcount : readAt 0 s.cnt c = readAt 0 s.prev c + k)
    (hwin : 1000000 ≤ elapsedUs s.cfg s.tlast s.now) :
    ∃ t, pollSteps (s.cfg.n + 2) s = .next t ∧
      readAt 0 t.freq c = freqRound s.cfg.rounding (k * 1000000) (elapsedUs s.cfg s.tlast s.now) ∧
      readAt false t.ovf c = false ∧ readAt 0 t.prev c = readAt 0 s.prev c + k := by
  obtain ⟨t, hrun, -, hcompute⟩ := uninterruptedPollCompletes s h.cfg h.shaped hp hi
  obtain ⟨hprev, -, hchannel, -⟩ := hcompute hwin
  have hpulses := (hchannel c hc).2
  rw [hcount, Nat.add_sub_cancel_left] at hpulses
  obtain ⟨hfreq, hovf⟩ := hpulses (Nat.le_add_right ..)
  exact ⟨t, hrun, hfreq, hovf, by rw [hprev, hcount]⟩

/-- Settles O23: at the second `POLL` the counter is `k` ahead of its baseline and the clock `d` ahead of the window's start. -/
theorem edgesBetweenPollsAreItsPulses : Obligations.EdgesBetweenPollsAreItsPulses := by
  intro s t u line c k d hs hp hi hwin hpoll hm hc hwrap hedges hd hd'
  have ht := computingPoll_baselines hs hp hi hwin hpoll
  have htinv : Inv t := hs.kept_by_pollSteps hpoll
  have hm' : mappedChannel t line = some c := by rw [ht]; exact hm
  have hc' : c < t.cfg.n := by rw [ht]; exact hc
  obtain ⟨u', hedges', hcnt, -, hu⟩ := edgesAddUp k t line c htinv hm' hc'
  cases hedges.symm.trans hedges'
  have hinv : Inv (ticks d u) := (htinv.kept_by_edges k hedges).kept_by_ticks d
  have hu' : u = { s with
      freq := t.freq, ovf := t.ovf, prev := s.cnt, tlast := s.now, response := t.response, cnt := u.cnt } :=
    hu.trans (by rw [ht])
  have hw : ticks d u = { s with
      freq := t.freq, ovf := t.ovf, prev := s.cnt, tlast := s.now, response := t.response, cnt := u.cnt
      t := s.t + d, cd := (ticks d u).cd, out := (ticks d u).out } :=
    (ticks_frame d u).trans (by rw [hu'])
  generalize ticks d u = w at hinv hw ⊢
  have hcfg : w.cfg = s.cfg := by rw [hw]
  have hprev : w.prev = s.cnt := by rw [hw]
  have hcount : readAt 0 w.cnt c = readAt 0 w.prev c + k := by
    rw [ht] at hcnt
    rw [hw]
    exact hcnt.trans (Nat.mod_eq_of_lt hwrap)
  have helapsed : elapsedUs w.cfg w.tlast w.now = d := by
    rw [hw]
    exact elapsedUs_of_lt s.t hd'
  have hsecond := computingPoll_pulses hinv (by rw [hw]; exact hp) (by rw [hw]; exact hi) (hcfg ▸ hc) hcount
    (helapsed.symm ▸ hd)
  rwa [helapsed, hprev, hcfg] at hsecond

end Sys2Proof.Machine

/-!
PROOF. `FreqRound` (spec/42_frequency_estimator.md R92). `NearestEven` places a quotient among the midpoints of its pattern with every other
finite pattern. The default has this of every quotient, and from it follow that it is monotone, exact and a function of the quotient alone,
so that the device's rounding is admissible either way, and that no pattern is nearer.
-/

namespace Sys2Proof.Machine

/-! ### The nearest pattern -/

/-- Pattern `p` is the finite pattern nearest to `q` units of `2^-149`, and even where another is as near: `q` is on `p`'s side of every
midpoint (R92). -/
structure NearestEven (q : ℚ) (p : Nat) : Prop where
  le_maxFinite : p ≤ maxFinite
  below : ∀ c, c < p → (magnitude c + magnitude p : ℚ) ≤ 2 * q ∧ (magnitude c + magnitude p = 2 * q → p % 2 = 0)
  above : ∀ c, p < c → c ≤ maxFinite →
    2 * q ≤ magnitude p + magnitude c ∧ (2 * q = magnitude p + magnitude c → p % 2 = 0)

theorem magnitude_cast_lt {a b : Nat} (h : a < b) : (magnitude a : ℚ) < magnitude b := by
  exact_mod_cast magnitude_strictMono h

theorem magnitude_cast_le {a b : Nat} (h : a ≤ b) : (magnitude a : ℚ) ≤ magnitude b := by
  exact_mod_cast magnitude_strictMono.monotone h

/-- The pattern below the quotient is the nearest when the default does not round up. -/
theorem nearestEven_floorPattern {num den : Nat} (hden : 0 < den)
    (hdown : ¬ (floorPattern num den < maxFinite ∧ roundsUp num den (floorPattern num den) = true)) :
    NearestEven (unitQuotient num den) (floorPattern num den) where
  le_maxFinite := (floorPattern_spec num den).1.1
  below c hc := by
    have hlt := magnitude_cast_lt hc
    have hq := magnitude_floorPattern_le num den hden
    exact ⟨by linarith, fun h => by linarith⟩
  above c hc hmax := by
    have hnext := magnitude_cast_le (Nat.succ_le_of_lt hc)
    rw [roundsUp_iff _ _ _ hden, not_and, not_or, not_and, not_lt] at hdown
    obtain ⟨hmid, htie⟩ := hdown (by omega)
    exact ⟨by linarith, fun h => Nat.mod_two_ne_one.1 (htie (by linarith))⟩

/-- The pattern above the quotient is the nearest when the default rounds up. -/
theorem nearestEven_succ_floorPattern {num den : Nat} (hden : 0 < den) (hlt : floorPattern num den < maxFinite)
    (hup : roundsUp num den (floorPattern num den) = true) :
    NearestEven (unitQuotient num den) (floorPattern num den + 1) where
  le_maxFinite := hlt
  below c hc := by
    have hprev := magnitude_cast_le (Nat.le_of_lt_succ hc)
    rcases (roundsUp_iff _ _ _ hden).1 hup with hmid | ⟨hmid, hodd⟩
    · exact ⟨by linarith, fun h => by linarith⟩
    · exact ⟨by linarith, fun _ => by omega⟩
  above c hc _ := by
    have hnext := magnitude_cast_lt hc
    have hq := unitQuotient_lt_magnitude num den hden hlt
    exact ⟨by linarith, fun h => by linarith⟩

/-- The default rounding takes the nearest pattern, ties to even (R92). -/
theorem nearestEven_nearestEvenRound (num : Nat) {den : Nat} (hden : 0 < den) :
    NearestEven (unitQuotient num den) (nearestEvenRound num den).toNat := by
  rw [toNat_nearestEvenRound]
  split_ifs with h
  · exact nearestEven_succ_floorPattern hden h.1 h.2
  · exact nearestEven_floorPattern hden h

/-- Nearest patterns are monotone in the quotient. Out of order both would be even, at a common midpoint, and a pattern between them would be
nearer. -/
theorem NearestEven.mono {q q' : ℚ} {p p' : Nat} (h : NearestEven q p) (h' : NearestEven q' p') (hq : q ≤ q') :
    p ≤ p' := by
  by_contra! hlt
  obtain ⟨hmid, htie⟩ := h.below p' hlt
  obtain ⟨hmid', htie'⟩ := h'.above p hlt h.le_maxFinite
  have heven := htie (by linarith)
  have heven' := htie' (by linarith)
  have hbetween := (h.below (p' + 1) (by omega)).1
  have := magnitude_cast_lt (Nat.lt_succ_self p')
  linarith

/-- A quotient that has a pattern of its own is given that pattern. -/
theorem NearestEven.eq_of_magnitude_eq {q : ℚ} {p c : Nat} (h : NearestEven q p) (hc : c ≤ maxFinite)
    (hq : (magnitude c : ℚ) = q) : p = c := by
  rcases lt_trichotomy p c with hlt | heq | hlt
  · have := magnitude_cast_lt hlt
    linarith [(h.above c hlt hc).1]
  · exact heq
  · have := magnitude_cast_lt hlt
    linarith [(h.below c hlt).1]

/-! ### A function of the quotient that R92 admits -/

theorem unitQuotient_eq (num den : Nat) : unitQuotient num den = (num : ℚ) / den * 2 ^ 149 :=
  mul_div_right_comm ..

/-- The default rounding as a function of the exact quotient (R92). -/
def nearestEvenOf (q : ℚ) : Word := nearestEvenRound q.num.toNat q.den

theorem nearestEven_nearestEvenOf {q : ℚ} (hq : 0 ≤ q) : NearestEven (q * 2 ^ 149) (nearestEvenOf q).toNat := by
  have hnum : ((q.num.toNat : ℕ) : ℚ) = q.num := by
    exact_mod_cast Int.toNat_of_nonneg (Rat.num_nonneg.2 hq)
  have h := nearestEven_nearestEvenRound q.num.toNat q.den_pos
  rwa [unitQuotient_eq, hnum, Rat.num_div_den] at h

theorem nearestEvenOf_div (num : Nat) {den : Nat} (hden : 0 < den) :
    nearestEvenOf ((num : ℚ) / den) = nearestEvenRound num den := by
  have h := nearestEven_nearestEvenOf (q := (num : ℚ) / den) (by positivity)
  have h' := nearestEven_nearestEvenRound num hden
  rw [unitQuotient_eq] at h'
  exact BitVec.eq_of_toNat_eq (le_antisymm (h.mono h' le_rfl) (h'.mono h le_rfl))

/-- The value of a pattern in units of `2^-149`. -/
theorem magnitude_eq_of_val32_eq {b : Word} {q : ℚ} (hb : FiniteNonneg b) (h : val32 b = q) :
    (magnitude b.toNat : ℚ) = q * 2 ^ 149 := by
  rw [← h, val32_of_finiteNonneg b hb, div_mul_cancel₀ _ (by positivity)]

theorem nearestEvenOf_eq {q : ℚ} {b : Word} (hb : FiniteNonneg b) (h : val32 b = q) : nearestEvenOf q = b := by
  have hq : 0 ≤ q := by
    rw [← h, val32_of_finiteNonneg b hb]
    positivity
  exact BitVec.eq_of_toNat_eq
    ((nearestEven_nearestEvenOf hq).eq_of_magnitude_eq hb (magnitude_eq_of_val32_eq hb h))

theorem finiteNonneg_nearestEvenOf (q : ℚ) : FiniteNonneg (nearestEvenOf q) := finiteNonneg_nearestEvenRound ..

/-- The default is one of the functions that R92 admits. -/
theorem admissibleRound_nearestEvenOf : AdmissibleRound nearestEvenOf where
  zero := nearestEvenOf_eq (Nat.zero_le _) (by rw [val32_of_finiteNonneg 0 (Nat.zero_le _)]; simp)
  finite q _ := finiteNonneg_nearestEvenOf q
  exact _ _ := nearestEvenOf_eq
  mono q q' hq hle := by
    rw [val32_of_finiteNonneg _ (finiteNonneg_nearestEvenOf q), val32_of_finiteNonneg _ (finiteNonneg_nearestEvenOf q')]
    have h := (nearestEven_nearestEvenOf hq).mono (nearestEven_nearestEvenOf (hq.trans hle))
      (mul_le_mul_of_nonneg_right hle (by positivity))
    exact div_le_div_of_nonneg_right (magnitude_cast_le h) (by positivity)

/-- Whichever rounding the device has, it is an admissible function of the quotient (R92). -/
theorem exists_admissibleRound (mode : Rounding) : ∃ round, AdmissibleRound round ∧
    ∀ num den : Nat, 0 < den → freqRound mode num den = round ((num : ℚ) / den) := by
  obtain heq | ⟨round, hround, heq⟩ := freqRound_cases mode
  · exact ⟨nearestEvenOf, admissibleRound_nearestEvenOf, fun num den hden => by rw [heq, nearestEvenOf_div num hden]⟩
  · exact ⟨round, hround, fun num den _ => heq num den⟩

/-- Settles O26: each property is read off the admissible function that the device's rounding is. -/
theorem freqRoundIsAdmissible : Obligations.FreqRoundIsAdmissible := by
  intro mode num den hden
  obtain ⟨round, hround, heq⟩ := exists_admissibleRound mode
  refine ⟨finiteNonneg_freqRound .., ?_, fun b hb hval => ?_, fun num' den' hden' hle => ?_, fun num' den' hden' hq => ?_⟩
  · rw [heq 0 den hden, Nat.cast_zero, zero_div, hround.zero]
  · rw [heq num den hden, hround.exact _ b hb hval]
  · rw [heq num den hden, heq num' den' hden']
    exact hround.mono _ _ (by positivity) hle
  · rw [heq num den hden, heq num' den' hden', hq]

/-! ### No pattern is nearer -/

/-- Which of two values is nearer to `q` is decided by the side of their midpoint on which `q` lies. -/
theorem abs_sub_le_abs_sub_iff (p c q : ℚ) : |p - q| ≤ |c - q| ↔ 0 ≤ (c - p) * (c + p - 2 * q) := by
  rw [← sq_le_sq, ← sub_nonneg]
  ring_nf

/-- No finite pattern is nearer than the nearest, and as near is another only if the nearest is even. -/
theorem NearestEven.abs_le {q : ℚ} {p c : Nat} (h : NearestEven q p) (hc : c ≤ maxFinite) :
    |(magnitude p : ℚ) - q| ≤ |magnitude c - q| ∧
      (c ≠ p → |(magnitude p : ℚ) - q| = |magnitude c - q| → p % 2 = 0) := by
  have htie (hne : magnitude c - magnitude p ≠ (0 : ℚ)) (heq : |(magnitude p : ℚ) - q| = |magnitude c - q|) :
      (magnitude c + magnitude p : ℚ) = 2 * q := by
    have hle := (abs_sub_le_abs_sub_iff _ _ _).1 heq.le
    have hge := (abs_sub_le_abs_sub_iff _ _ _).1 heq.ge
    have := (mul_eq_zero.1 (le_antisymm (by linarith) hle)).resolve_left hne
    linarith
  rcases lt_trichotomy c p with hlt | rfl | hlt
  · have hm := magnitude_cast_lt hlt
    obtain ⟨hmid, heven⟩ := h.below c hlt
    exact ⟨(abs_sub_le_abs_sub_iff _ _ _).2 (mul_nonneg_of_nonpos_of_nonpos (by linarith) (by linarith)),
      fun _ heq => heven (htie (by linarith) heq)⟩
  · exact ⟨le_rfl, fun hne => absurd rfl hne⟩
  · have hm := magnitude_cast_lt hlt
    obtain ⟨hmid, heven⟩ := h.above c hlt hc
    exact ⟨(abs_sub_le_abs_sub_iff _ _ _).2 (mul_nonneg (by linarith) (by linarith)),
      fun _ heq => heven (by linarith [htie (by linarith) heq])⟩

/-- The distance of a pattern's value from a quotient, in units of `2^-149`. -/
theorem abs_val32_sub_div {b : Word} (hb : FiniteNonneg b) (num den : Nat) :
    |val32 b - (num : ℚ) / den| = |magnitude b.toNat - unitQuotient num den| / 2 ^ 149 := by
  have hunit : (num : ℚ) / den = unitQuotient num den / 2 ^ 149 := by
    rw [unitQuotient_eq, mul_div_cancel_right₀ _ (by positivity)]
  rw [val32_of_finiteNonneg b hb, hunit, ← sub_div, abs_div, abs_of_pos (by positivity : (0 : ℚ) < 2 ^ 149)]

/-- Settles O27: distances of values are distances of magnitudes in units of `2^-149`. The bound on the quotient is not needed: above the
largest finite pattern that pattern is still the nearest. -/
theorem defaultFreqRoundIsNearestEven : Obligations.DefaultFreqRoundIsNearestEven := by
  intro num den hden _ b hb
  obtain ⟨hle, heven⟩ := (nearestEven_nearestEvenRound num hden).abs_le hb
  have hscale : (0 : ℚ) < 2 ^ 149 := by positivity
  rw [abs_val32_sub_div hb, abs_val32_sub_div (finiteNonneg_freqRound ..)]
  exact ⟨div_le_div_of_nonneg_right hle hscale.le,
    fun hne heq => heven (fun h => hne (BitVec.eq_of_toNat_eq h)) ((div_left_inj' hscale.ne').1 heq)⟩

end Sys2Proof.Machine

/-!
PROOF. The frequency estimator (spec/42_frequency_estimator.md R85 to R99): the clock difference, the micro-steps of `POLL` and its commit, a
second `POLL` within the second, and the two operations that read what was stored.
-/

namespace Sys2Proof.Machine

/-! ### The clock difference -/

/-- The clock difference is the true elapsed time modulo `2^TW` (R88). -/
theorem elapsedUs_eq_mod (c : Config) {tRef tNow : Nat} (h : tRef ≤ tNow) :
    elapsedUs c (tRef % 2 ^ c.tw) (tNow % 2 ^ c.tw) = (tNow - tRef) % 2 ^ c.tw := by
  unfold elapsedUs
  rw [Int.natCast_mod, Int.natCast_mod, ← Int.sub_emod, ← Int.ofNat_sub h, ← Int.natCast_mod, Int.toNat_natCast]

/-- Settles O25: below `2^TW` the remainder is the time itself. -/
theorem elapsedIsTrueTimeBelowTheAlias : Obligations.ElapsedIsTrueTimeBelowTheAlias := fun c _ _ h =>
  ⟨elapsedUs_eq_mod c h, fun hlt => (elapsedUs_eq_mod c h).trans (Nat.mod_eq_of_lt hlt)⟩

/-! ### The micro-steps -/

theorem exec_poll_of_loading {s : State} {snap : List Nat} (hp : s.phase = .loading snap) :
    exec .poll s = .next (pollAdvance s snap) := by
  simp only [exec, execPoll, hp]

theorem exec_poll_of_sampled {s : State} {snap : List Nat} {ts : Nat} (hp : s.phase = .sampled snap ts) :
    exec .poll s = pollCommit s snap ts := by
  simp only [exec, execPoll, hp]

/-- Settles O18: each clause is a branch of `POLL`. -/
theorem pollTakesItsMicroSteps : Obligations.PollTakesItsMicroSteps := by
  intro s
  refine ⟨exec_poll_of_not_inInit, exec_poll_of_idle, fun snap hp hlt => ?_, fun snap hp hle => ?_⟩
  · rw [exec_poll_of_loading hp, pollAdvance, if_pos hlt]
    rfl
  · rw [exec_poll_of_loading hp, pollAdvance, if_neg (Nat.not_lt.2 hle)]
    rfl

/-! ### The commit -/

/-- Settles O19: the throttled branch of the commit. -/
theorem throttledPollChangesNothing : Obligations.ThrottledPollChangesNothing := by
  intro s snap ts hp hwin
  rw [exec_poll_of_sampled hp, pollCommit_of_throttled s snap ts hwin]
  rfl

/-- A counter behind its baseline is flagged and its frequency is 0 (R91). -/
theorem channelFreq_of_lt {s : State} {snap : List Nat} {i : Nat} (h : readAt 0 snap i < readAt 0 s.prev i) (e : Nat) :
    channelFreq s snap e i = 0 ∧ negativeDelta s snap i = true := by
  simp [channelFreq, negativeDelta, h]

/-- A counter not behind its baseline gives its rate and no flag (R90). -/
theorem channelFreq_of_le {s : State} {snap : List Nat} {i : Nat} (h : readAt 0 s.prev i ≤ readAt 0 snap i) (e : Nat) :
    channelFreq s snap e i =
        freqRound s.cfg.rounding ((readAt 0 snap i - readAt 0 s.prev i) * 1000000) e ∧
      negativeDelta s snap i = false := by
  simp [channelFreq, negativeDelta, pulses, Nat.not_lt.2 h]

theorem anyNegativeDelta_iff (s : State) (snap : List Nat) :
    anyNegativeDelta s snap = true ↔ ∃ i, i < s.cfg.n ∧ readAt 0 snap i < readAt 0 s.prev i := by
  simp [anyNegativeDelta, negativeDelta]

/-- Settles O20: what the computing commit stores, channel by channel. -/
theorem commitComputesEveryChannel : Obligations.CommitComputesEveryChannel := by
  intro s snap ts hp hwin
  refine ⟨_, (exec_poll_of_sampled hp).trans (pollCommit_of_window s snap ts hwin),
    fun i hi => ⟨fun hneg => ?_, fun hpos => ?_, ?_⟩, rfl, rfl, fun hneg => ?_, fun hpos => ?_, rfl⟩
  · simpa [hi] using channelFreq_of_lt hneg _
  · simpa [hi] using channelFreq_of_le hpos _
  · simp [hi]
  · simp [(anyNegativeDelta_iff s snap).2 hneg, pollResult]
  · have hnone : anyNegativeDelta s snap = false := by
      rw [← Bool.not_eq_true, anyNegativeDelta_iff]
      exact fun ⟨i, hi, hlt⟩ => Nat.not_lt.2 (hpos i hi) hlt
    simp [hnone, pollResult]

/-! ### Two polls in succession -/

/-- A commit keeps the shape and writes the estimator's registers, `PHASE` and the response only (R89, R94). -/
theorem pollCommit_shaped {s t : State} {snap : List Nat} {ts : Nat} (hs : Shaped s) (h : pollCommit s snap ts = .next t) :
    Shaped t ∧ t = { s with freq := t.freq, ovf := t.ovf, prev := t.prev, tlast := t.tlast, phase := .idle,
                            response := t.response } := by
  by_cases hwin : elapsedUs s.cfg s.tlast ts < windowUs
  · rw [pollCommit_of_throttled s snap ts hwin] at h
    cases h
    exact ⟨{ hs with }, rfl⟩
  · rw [pollCommit_of_window s snap ts (Nat.not_lt.1 hwin)] at h
    cases h
    exact ⟨{ hs with prev := by simp, freq := by simp, ovf := by simp }, rfl⟩

theorem Shaped.kept_by_ticks (d : Nat) : ∀ {s : State}, Shaped s → Shaped (ticks d s) := by
  induction d with
  | zero => exact fun h => h
  | succ d ih => exact fun h => ih (s := tick _) { h with cd := by simp, out := by simp }

/-- `d` ticks after the window's start the clock difference is at most `d`. -/
theorem elapsedUs_ticks_le {s : State} (h : s.tlast = s.now) (d : Nat) :
    elapsedUs (ticks d s).cfg (ticks d s).tlast (ticks d s).now ≤ d := by
  rw [ticks_frame d s, h]
  refine (elapsedUs_eq_mod s.cfg (Nat.le_add_right s.t d)).trans_le ?_
  rw [Nat.add_sub_cancel_left]
  exact Nat.mod_le ..

/-- Settles O22: the second `POLL` finds a window of at most `d` microseconds. -/
theorem secondPollInSuccessionIsNoOp : Obligations.SecondPollInSuccessionIsNoOp := by
  intro s t d hw hs hp hi hfirst htlast hd
  rw [pollSteps_eq_pollCommit hw hs hp hi] at hfirst
  obtain ⟨hshaped, ht⟩ := pollCommit_shaped hs hfirst
  have hcfg : t.cfg = s.cfg := by rw [ht]
  have hnow : t.tlast = t.now := by rw [htlast, ht]; rfl
  have hwin := (elapsedUs_ticks_le hnow d).trans_lt hd
  have hkept := hshaped.kept_by_ticks d
  have hu : (ticks d t).cfg = s.cfg ∧ (ticks d t).phase = .idle ∧ (ticks d t).inInit = true := by
    rw [ticks_frame d t, ht]
    exact ⟨rfl, rfl, hi⟩
  obtain ⟨hucfg, hup, hui⟩ := hu
  obtain ⟨u, hsecond, hthrottled, -⟩ := uninterruptedPollCompletes (ticks d t) (hucfg ▸ hw) hkept hup hui
  rw [← hucfg, hsecond, hthrottled hwin]

/-! ### Reading the registers -/

/-- Settles O28: each clause is a branch of `GET_FREQ`. -/
theorem getFreqReadsTheFrequency : Obligations.GetFreqReadsTheFrequency := by
  refine fun s i => ⟨fun hi => ?_, fun hi => ?_⟩
  · simp [exec, execGetFreq, inputIndexOk, hi, succeed_eq]
  · simp [exec, execGetFreq, inputIndexOk, Nat.not_lt.2 hi, raise_eq]

/-- Bit 0 of a flag's word is the flag, the others are 0 (R97). -/
theorem getLsbD_flagWord (flag : Bool) (k : Nat) : (flagWord flag).getLsbD k = (flag && decide (k = 0)) := by
  cases flag <;> simp [flagWord, BitVec.getLsbD_one]

/-- Settles O29: each clause is a branch of `GET_FLAGS`, and its word is the flag's. -/
theorem getFlagsReadsTheFlag : Obligations.GetFlagsReadsTheFlag := by
  refine fun s i => ⟨fun hi => ⟨flagWord (readAt false s.ovf i), ?_, ?_, fun k hk => ?_⟩, fun hi => ?_⟩
  · simp [exec, execGetFlags, inputIndexOk, hi, succeed_eq]
  · rw [getLsbD_flagWord, decide_eq_true rfl, Bool.and_true]
  · rw [getLsbD_flagWord, decide_eq_false (by omega), Bool.and_false]
  · simp [exec, execGetFlags, inputIndexOk, Nat.not_lt.2 hi, raise_eq]

end Sys2Proof.Machine

/-!
PROOF. Every step answers a next state (spec/60_exceptions.md R140), and what the commit of a `POLL` makes due in the joined machine
(spec/43_filter_boundary.md R116).
-/

namespace Sys2Proof.Machine

/-- Every operation answers a next state (R140). -/
theorem exec_answers_next (i : Instr) (s : State) : ∃ t, exec i s = .next t := by
  cases i with
  | onEdge line => exact ⟨_, exec_onEdge line s⟩
  | initIn =>
    simp only [exec, execInitIn]
    split_ifs <;> exact ⟨_, rfl⟩
  | initOut =>
    simp only [exec, execInitOut]
    split_ifs <;> exact ⟨_, rfl⟩
  | poll =>
    by_cases hp : s.phase = .idle
    · simp only [exec, execPoll, hp]
      split_ifs <;> exact ⟨_, rfl⟩
    · obtain ⟨t, h, -⟩ := exec_poll_of_polling hp
      exact ⟨t, h⟩
  | setFreq j hz =>
    simp only [exec, execSetFreq]
    split_ifs <;> exact ⟨_, rfl⟩
  | getFreq i =>
    simp only [exec, execGetFreq]
    split_ifs <;> exact ⟨_, rfl⟩
  | getFlags i =>
    simp only [exec, execGetFlags]
    split_ifs <;> exact ⟨_, rfl⟩

/-- Every agent's step answers a next state (R140, R159). -/
theorem agentStep_answers_next (e : Event) (s : State) : ∃ t, agentStep e s = .next t := by
  cases e with
  | tick => exact ⟨_, rfl⟩
  | transition line edge => exact ⟨_, rfl⟩
  | serve request =>
    simp only [agentStep, serveStep]
    split_ifs
    · exact exec_answers_next ..
    · exact ⟨_, rfl⟩
  | spurious request => exact ⟨_, spuriousStep_eq request _⟩
  | command w =>
    simp only [agentStep, commandStep]
    split_ifs
    · split
      · exact exec_answers_next ..
      · exact ⟨_, rfl⟩
    · exact exec_answers_next ..
  | pollStep =>
    simp only [agentStep, pollStep]
    split_ifs
    · exact ⟨_, rfl⟩
    · exact exec_answers_next ..
  | reset => exact ⟨_, rfl⟩

theorem step_answers_next (s : State) : ∃ t, step s = .next t := by
  obtain ⟨e, -, -, heq⟩ := step_cases s
  rw [heq]
  exact agentStep_answers_next ..

/-- The host's step once the clock is sampled is the commit (R86). -/
theorem step_pollStep_of_sampled {s : State} {rest : List Event} {snap : List Nat} {ts : Nat}
    (hin : s.inputs = .pollStep :: rest) (hp : s.phase = .sampled snap ts) :
    step s = pollCommit { s with inputs := rest } snap ts := by
  rw [step_pollStep_of_polling hin (by simp [hp])]
  exact exec_poll_of_sampled hp

/-- The result of a computation has bit 0 set (R95). -/
theorem getLsbD_zero_pollResult (anyOvf : Bool) : (pollResult anyOvf).getLsbD 0 = true := by
  cases anyOvf <;> decide

/-- Settles O55: the commit's response tells a computation from a throttled window. -/
theorem computingPollMakesSamplesDue : Obligations.ComputingPollMakesSamplesDue := by
  intro R j _
  constructor
  · obtain ⟨t, hstep⟩ := step_answers_next j.block
    exact ⟨t, hstep, by rw [joinedBlockStep_of_next j t hstep]⟩
  · intro rest snap ts hin hp
    have hstep := step_pollStep_of_sampled hin hp
    constructor
    · intro hwin i hi
      rw [joinedBlockStep_of_next j _ (hstep.trans (pollCommit_of_window _ snap ts hwin))]
      simp [pollComputed, hp, getLsbD_zero_pollResult, hi]
    · intro hwin
      rw [joinedBlockStep_of_next j _ (hstep.trans (pollCommit_of_throttled _ snap ts hwin))]
      simp [pollComputed, hp, resetNext, withEvent_of_cons _ _ _ hin, hin]

end Sys2Proof.Machine

/-!
PROOF. The filter registry and its argument text (spec/43_filter_boundary.md R104 to R109). A number is printed so that the parser reads
it back, digit by digit; the configuration, the status and the round trip of the arguments follow from that and from the way a name
resolves.
-/

namespace Sys2Proof.Machine

/-! ### Names and identifiers -/

/-- A name that matches no entry is the identity filter's (R105). -/
theorem identifierForName_of_unknown {reg : Registry} {name : Text}
    (h : ∀ known ∈ filterNames reg, sameName name known = false) : identifierForName reg name = identityId := by
  have hidx : (filterNames reg).findIdx (sameName name) = (filterNames reg).length := List.findIdx_eq_length.2 h
  rw [identifierForName, if_neg (by simp [hidx])]

/-- Settles O51: the table ends at identifier 1, and the identity has no function that could change a sample. -/
theorem unknownFilterIsTheIdentity : Obligations.UnknownFilterIsTheIdentity :=
  ⟨fun _ _ => identifierForName_of_unknown, fun _ _ h => List.getD_eq_default _ _ h, fun _ _ _ _ _ => rfl⟩

/-! ### Splitting text -/

theorem splitFirst_of_notMem {c : Char} {a : Text} (h : c ∉ a) : splitFirst c a = (a, none) := by
  induction a with
  | nil => rfl
  | cons x xs ih =>
    obtain ⟨hx, hxs⟩ := not_or.1 (List.mem_cons.not.1 h)
    simp [splitFirst, Ne.symm hx, ih hxs]

theorem splitFirst_append_cons {c : Char} {a : Text} (h : c ∉ a) (b : Text) : splitFirst c (a ++ c :: b) = (a, some b) := by
  induction a with
  | nil => simp [splitFirst]
  | cons x xs ih =>
    obtain ⟨hx, hxs⟩ := not_or.1 (List.mem_cons.not.1 h)
    simp [splitFirst, Ne.symm hx, ih hxs]

/-! ### Digits -/

theorem toNat_digit (v : Nat) : (Char.ofNat (48 + v % 10)).toNat = 48 + v % 10 :=
  (by decide : ∀ d < 10, (Char.ofNat (48 + d)).toNat = 48 + d) _ (Nat.mod_lt v (by decide))

@[simp] theorem length_paddedDigits (k : Nat) : ∀ v, (paddedDigits k v).length = k := by
  induction k with
  | zero => exact fun _ => rfl
  | succ k ih => simp [paddedDigits, ih]

/-- No sign and no separator is a digit. -/
theorem notMem_paddedDigits {c : Char} (h : c.toNat < 48) (k : Nat) : ∀ v, c ∉ paddedDigits k v := by
  induction k with
  | zero => simp [paddedDigits]
  | succ k ih =>
    intro v hmem
    obtain hmem | rfl : c ∈ paddedDigits k (v / 10) ∨ c = Char.ofNat (48 + v % 10) := by
      simpa [paddedDigits] using hmem
    · exact ih _ hmem
    · rw [toNat_digit] at h
      omega

theorem readDigits_append (a b : Text) : ∀ acc, readDigits acc (a ++ b) = (readDigits acc a).bind (readDigits · b) := by
  induction a with
  | nil => exact fun _ => rfl
  | cons c cs ih =>
    intro acc
    simp only [List.cons_append, readDigits]
    split_ifs
    · exact ih _
    · rfl

/-- Reading `k` printed digits appends them to what was read before. -/
theorem readDigits_paddedDigits (k : Nat) : ∀ v acc, readDigits acc (paddedDigits k v) = some (acc * 10 ^ k + v % 10 ^ k) := by
  induction k with
  | zero => simp [paddedDigits, readDigits, Nat.mod_one]
  | succ k ih =>
    intro v acc
    have hlow : v % 10 ^ (k + 1) = v % 10 + 10 * (v / 10 % 10 ^ k) := by rw [pow_succ', Nat.mod_mul]
    have hdigit : v % 10 < 10 := Nat.mod_lt v (by decide)
    rw [paddedDigits, readDigits_append, ih, Option.bind_some, readDigits, toNat_digit, if_pos (by omega), readDigits, hlow,
      pow_succ]
    congr 1
    rw [Nat.add_sub_cancel_left]
    ring

theorem digitCount_pos (fuel v : Nat) : 0 < digitCount fuel v := by
  cases fuel with
  | zero => exact Nat.one_pos
  | succ fuel =>
    rw [digitCount]
    split_ifs <;> omega

/-- With enough fuel all digits are counted. -/
theorem lt_pow_digitCount (fuel : Nat) : ∀ v ≤ fuel, v < 10 ^ digitCount fuel v := by
  induction fuel with
  | zero =>
    intro v hv
    simp [digitCount, Nat.le_zero.1 hv]
  | succ fuel ih =>
    intro v hv
    rw [digitCount]
    split_ifs with hsmall
    · exact hsmall
    · have hrest := ih (v / 10) (by omega)
      rw [pow_add, pow_one]
      omega

/-! ### Numbers -/

theorem parseUnsigned_of_whole {whole : Text} {v : Nat} (hne : whole ≠ []) (hdot : '.' ∉ whole)
    (hv : readDigits 0 whole = some v) :
    parseUnsigned whole = some { negative := false, digits := v, scale := 0 } := by
  simp [parseUnsigned, splitFirst_of_notMem hdot, hne, hv]

theorem parseUnsigned_of_point {whole frac : Text} {v : Nat} (hne : whole ≠ []) (hfrac : frac ≠ []) (hdot : '.' ∉ whole)
    (hv : readDigits 0 (whole ++ frac) = some v) :
    parseUnsigned (whole ++ '.' :: frac) = some { negative := false, digits := v, scale := frac.length } := by
  simp [parseUnsigned, splitFirst_append_cons hdot, hne, hfrac, hv]

theorem not_negative_of_parseUnsigned {text : Text} {d : Decimal} (h : parseUnsigned text = some d) : d.negative = false := by
  unfold parseUnsigned at h
  split at h <;> split_ifs at h <;> obtain ⟨v, -, rfl⟩ := Option.map_eq_some_iff.1 h <;> rfl

theorem parseNumber_of_notMem {text : Text} (accept : Bool) (h : '-' ∉ text) :
    parseNumber accept text = parseUnsigned text := by
  unfold parseNumber
  split
  · simp at h
  · rfl

/-- A negative number is read only where negative numbers are accepted (U12). -/
theorem accepted_of_parseNumber {accept : Bool} {text : Text} {d : Decimal} (h : parseNumber accept text = some d)
    (hneg : d.negative = true) : accept = true := by
  unfold parseNumber at h
  split at h
  · split_ifs at h with hacc
    exact hacc
  · simp [not_negative_of_parseUnsigned h] at hneg

/-- The digits before the point, without leading zeros but for the number 0 itself. -/
def Decimal.wholeText (d : Decimal) : Text :=
  paddedDigits (digitCount d.digits (d.digits / 10 ^ d.scale)) (d.digits / 10 ^ d.scale)

theorem printDecimal_eq (d : Decimal) : printDecimal d =
    (if d.negative then ['-'] else []) ++ d.wholeText ++
      (if d.scale = 0 then [] else '.' :: paddedDigits d.scale (d.digits % 10 ^ d.scale)) := rfl

theorem Decimal.wholeText_ne_nil (d : Decimal) : d.wholeText ≠ [] :=
  List.ne_nil_of_length_pos (by simpa [wholeText] using digitCount_pos ..)

theorem Decimal.notMem_wholeText {c : Char} (h : c.toNat < 48) (d : Decimal) : c ∉ d.wholeText :=
  notMem_paddedDigits h _ _

theorem readDigits_wholeText (d : Decimal) : readDigits 0 d.wholeText = some (d.digits / 10 ^ d.scale) := by
  rw [Decimal.wholeText, readDigits_paddedDigits, Nat.mod_eq_of_lt (lt_pow_digitCount _ _ (Nat.div_le_self ..)), zero_mul,
    zero_add]

/-- The digits before and after the point are those of the number. -/
theorem readDigits_wholeText_append (d : Decimal) :
    readDigits 0 (d.wholeText ++ paddedDigits d.scale (d.digits % 10 ^ d.scale)) = some d.digits := by
  rw [readDigits_append, readDigits_wholeText, Option.bind_some, readDigits_paddedDigits, Nat.mod_mod, Nat.div_add_mod']

theorem parseUnsigned_printDecimal {d : Decimal} (hpos : d.negative = false) : parseUnsigned (printDecimal d) = some d := by
  have hdot : '.' ∉ d.wholeText := d.notMem_wholeText (by decide)
  obtain ⟨negative, digits, scale⟩ := d
  obtain rfl : negative = false := hpos
  rw [printDecimal_eq]
  by_cases hscale : scale = 0
  · subst hscale
    simpa using parseUnsigned_of_whole (Decimal.wholeText_ne_nil _) hdot (readDigits_wholeText _)
  · have hfrac : paddedDigits scale (digits % 10 ^ scale) ≠ [] :=
      List.ne_nil_of_length_pos (by simpa using Nat.pos_of_ne_zero hscale)
    simpa [hscale] using
      parseUnsigned_of_point (Decimal.wholeText_ne_nil _) hfrac hdot (readDigits_wholeText_append _)

/-- The sign, the digits and the point are all that is printed. -/
theorem notMem_printDecimal {c : Char} (h : c.toNat < 48) (hdot : c ≠ '.') {d : Decimal} (hneg : d.negative = true → c ≠ '-') :
    c ∉ printDecimal d := by
  simp only [printDecimal_eq, List.mem_append, not_or]
  refine ⟨⟨?_, d.notMem_wholeText h⟩, ?_⟩
  · split_ifs with hsign
    · simpa using hneg hsign
    · exact List.not_mem_nil
  · split_ifs
    · exact List.not_mem_nil
    · simp [hdot, notMem_paddedDigits h]

/-- A number that may be written at all is printed as text that parses back to it (R108). -/
theorem parseNumber_printDecimal {accept : Bool} {d : Decimal} (h : d.negative = true → accept = true) :
    parseNumber accept (printDecimal d) = some d := by
  obtain ⟨negative, digits, scale⟩ := d
  cases negative with
  | false =>
    rw [parseNumber_of_notMem accept (notMem_printDecimal (by decide) (by decide) (by simp))]
    exact parseUnsigned_printDecimal rfl
  | true =>
    obtain rfl : accept = true := h rfl
    have hsign : printDecimal ⟨true, digits, scale⟩ = '-' :: printDecimal ⟨false, digits, scale⟩ := rfl
    simp [hsign, parseNumber, parseUnsigned_printDecimal]

/-! ### Arguments -/

/-- What the parser took had signs that are accepted. -/
theorem accepted_of_parseArguments {R : Type} {num : NumberType R} {reg : Registry} {identifier : Nat} {text : Text}
    {now : Nat} {st : LossyPeak R} (h : parseArguments num reg identifier text now = .state st) :
    (st.decay.negative = true → reg.acceptNegative = true) ∧ (st.delay.negative = true → reg.acceptNegative = true) := by
  unfold parseArguments parseLossyPeak at h
  split_ifs at h
  split at h
  · cases h
  · split at h <;> cases h
    next hdecay hdelay => exact ⟨accepted_of_parseNumber hdecay, accepted_of_parseNumber hdelay⟩

/-- The parser reads two printed numbers with a comma between them (R111). -/
theorem parseArguments_printDecimal {R : Type} (num : NumberType R) (reg : Registry) {decay delay : Decimal} (now : Nat)
    (hdecay : decay.negative = true → reg.acceptNegative = true) (hdelay : delay.negative = true → reg.acceptNegative = true) :
    parseArguments num reg lossyPeakId (printDecimal decay ++ ',' :: printDecimal delay) now =
      .state { decay := decay, delay := delay, peak := num.zero, tLast := now, tPeak := now, mode := .holding } := by
  have hcomma : ',' ∉ printDecimal decay := notMem_printDecimal (by decide) (by decide) (by simp)
  simp [parseArguments, parseLossyPeak, splitFirst_append_cons hcomma, parseNumber_printDecimal hdecay,
    parseNumber_printDecimal hdelay]

/-- Settles O52: both numbers are read back from what is printed, and the rest of a parsed state is what the parser starts with. -/
theorem serializedArgumentsParseBack : Obligations.SerializedArgumentsParseBack := by
  intro R num reg text now st h
  obtain ⟨hdecay, hdelay⟩ := accepted_of_parseArguments h
  obtain ⟨htLast, htPeak, hmode, hpeak⟩ := parseArguments_times num reg _ text now st h
  refine ⟨_, rfl, (parseArguments_printDecimal num reg now hdecay hdelay).trans ?_⟩
  rw [← hpeak, ← hmode]
  congr
  · exact htLast.symm
  · exact htPeak.symm

/-! ### Configuration and status -/

/-- A configuration with the lossy peak name is parsed by the lossy peak parser (R101). -/
theorem parsedConfig_of_lossyPeak {R : Type} (num : NumberType R) {reg : Registry} {name : Text} (text : Text) (s : State)
    (h : sameName name identityName = false) (hl : sameName name reg.lossyPeakName = true) :
    parsedConfig num reg name text s = parseArguments num reg lossyPeakId text s.now := by
  rw [parsedConfig, identifierForName_of_lossyPeak reg name h hl]

/-- A configuration with an unknown name has no state, which is no failure (R105, R107). -/
theorem parsedConfig_of_unknown {R : Type} (num : NumberType R) {reg : Registry} {name : Text} (text : Text) (s : State)
    (h : ∀ known ∈ filterNames reg, sameName name known = false) : parsedConfig num reg name text s = .noState := by
  rw [parsedConfig, identifierForName_of_unknown h]
  rfl

/-- Settles O53: slot and report are those of what the configuration parses to, and only slot `i` is written. -/
theorem configureReplacesTheSlot : Obligations.ConfigureReplacesTheSlot := by
  intro R num reg j i name text hi
  have hslot : readAt .identity (j.slots.set i (slotOfParsed (parsedConfig num reg name text j.block))) i =
      slotOfParsed (parsedConfig num reg name text j.block) := by simp [readAt_set, hi]
  refine ⟨_, _, rfl, fun h hl => ⟨fun st hst => ?_, fun hbad => ?_⟩, fun h => ?_, fun k hk => ?_⟩
  · rw [hslot, parsedConfig_of_lossyPeak num text _ h hl, hst]
    exact ⟨rfl, rfl⟩
  · rw [hslot, parsedConfig_of_lossyPeak num text _ h hl, hbad]
    exact ⟨rfl, rfl⟩
  · rw [hslot, parsedConfig_of_unknown num text _ h]
    exact ⟨rfl, rfl⟩
  · simp [readAt_set, Ne.symm hk]

/-- The status of an existing channel, in terms of what its slot holds (R101). -/
theorem channelStatus_of_lt {R : Type} (reg : Registry) {j : Joined R} {i : Nat} (hi : i < j.block.cfg.n)
    {slot : FilterSlot R} (hslot : readAt .identity j.slots i = slot) :
    channelStatus reg j i = some
      { frequency := readAt 0 j.block.freq i, filterName := nameForIdentifier reg slot.identifier,
        arguments := serializeArguments slot } := by
  rw [channelStatus, readFrequency_of_lt _ _ hi, hslot]
  rfl

/-- Settles O54: a configured slot holds the parsed state (O53), whose arguments parse back (O52). -/
theorem statusNamesTheFilter : Obligations.StatusNamesTheFilter := by
  intro R num reg j i hj hi
  refine ⟨channelStatus_of_lt reg hi, fun name text st h hl hst => ?_⟩
  obtain ⟨text', htext', hback⟩ := serializedArgumentsParseBack R num reg text j.block.now st hst
  obtain ⟨slots, report, hconf, hlossy, -⟩ := configureReplacesTheSlot R num reg j i name text (hj.slots ▸ hi)
  obtain ⟨hslot, -⟩ := (hlossy h hl).1 st hst
  refine ⟨text', ?_, hback⟩
  rw [hconf, channelStatus_of_lt reg (j := { j with slots := slots }) hi hslot, htext']
  rfl

end Sys2Proof.Machine

/-!
PROOF. The lossy peak filter over a sequence of samples (spec/43_filter_boundary.md R112 to R115): rising samples are the outputs; below a
peak the filter holds it and then follows the decay line down to the sample.
-/

namespace Sys2Proof.Machine

/-! ### Rising samples -/

/-- Step 1 of the apply contract: a sample not below the peak is the new peak (R112). -/
theorem applyLossyPeak_of_le {R : Type} {num : NumberType R} {st : LossyPeak R} {x : R} (h : num.le st.peak x = true)
    (c : Config) (t : Nat) :
    applyLossyPeak num c st x t = { st with peak := x, mode := .holding, tPeak := t, tLast := t } := if_pos h

theorem applyLossyPeak_of_not_le {R : Type} {num : NumberType R} {st : LossyPeak R} {x : R} (h : ¬ num.le st.peak x = true)
    (c : Config) (t : Nat) :
    applyLossyPeak num c st x t = { belowPeak num c st x t with tLast := t } := if_neg h

/-- Settles O49: every sample becomes the peak, and no later one is below it. -/
theorem peakFilterTracksRises : Obligations.PeakFilterTracksRises := by
  intro R num c st samples hlt
  induction samples generalizing st with
  | nil => exact fun _ _ => rfl
  | cons p rest ih =>
    obtain ⟨x, t⟩ := p
    intro hrise hpeak
    obtain ⟨hx, hrest⟩ := List.pairwise_cons.1 hrise
    have hle : num.le st.peak x = true := hpeak (x, t) List.mem_cons_self
    rw [feedPeak, applyLossyPeak_of_le hle, ih _ hrest fun p hp => hlt _ _ (hx _ (List.mem_map_of_mem hp))]
    rfl

/-! ### Holding and decaying, over exact rationals -/

@[simp] theorem exactNumbers_zero : exactNumbers.zero = 0 := rfl
@[simp] theorem exactNumbers_ofNat (n : Nat) : exactNumbers.ofNat n = n := rfl
@[simp] theorem exactNumbers_ofDecimal (d : Decimal) : exactNumbers.ofDecimal d = d.value := rfl
@[simp] theorem exactNumbers_sub (x y : ℚ) : exactNumbers.sub x y = x - y := rfl
@[simp] theorem exactNumbers_mul (x y : ℚ) : exactNumbers.mul x y = x * y := rfl
@[simp] theorem exactNumbers_div (x y : ℚ) : exactNumbers.div x y = x / y := rfl
@[simp] theorem exactNumbers_eq (x y : ℚ) : exactNumbers.eq x y = decide (x = y) := rfl
@[simp] theorem exactNumbers_lt (x y : ℚ) : exactNumbers.lt x y = decide (x < y) := rfl
@[simp] theorem exactNumbers_le (x y : ℚ) : exactNumbers.le x y = decide (x ≤ y) := rfl

/-- Between two clock values of one turn the clock difference is the plain one (R88). -/
theorem elapsedUs_of_le {c : Config} {u t : Nat} (hu : u ≤ t) (ht : t < 2 ^ c.tw) : elapsedUs c u t = t - u := by
  have h := elapsedUs_eq_mod c hu
  rwa [Nat.mod_eq_of_lt ht, Nat.mod_eq_of_lt (hu.trans_lt ht), Nat.mod_eq_of_lt ((Nat.sub_le ..).trans_lt ht)] at h

/-- The line that falls from the peak at `decay` per second, from the end of the delay on (R115). -/
def decayLine (st : LossyPeak ℚ) (t : Nat) : ℚ :=
  st.peak - (((t - st.tPeak : Nat) : ℚ) - st.delayUs exactNumbers) / 1000000 * st.decay.value

/-- What R115 (b) says of a constant value `v1` below the peak: the peak while the delay lasts, then the line until it meets `v1`. -/
def holdThenDecay (st : LossyPeak ℚ) (v1 : ℚ) (t : Nat) : ℚ :=
  if ((t - st.tPeak : Nat) : ℚ) ≤ st.delayUs exactNumbers then st.peak else max v1 (decayLine st t)

/-- The line goes on from where it is. -/
theorem decayLine_sub {st : LossyPeak ℚ} {u t : Nat} (hu : st.tPeak ≤ u) (ht : u ≤ t) :
    decayLine st u - ((t - u : Nat) : ℚ) / 1000000 * st.decay.value = decayLine st t := by
  simp only [decayLine, Nat.cast_sub hu, Nat.cast_sub ht, Nat.cast_sub (hu.trans ht)]
  ring

theorem decayLine_le {st : LossyPeak ℚ} (hdecay : 0 ≤ st.decay.value) {u t : Nat} (hu : st.tPeak ≤ u) (ht : u ≤ t) :
    decayLine st t ≤ decayLine st u := by
  rw [← decayLine_sub hu ht]
  exact sub_le_self _ (by positivity)

/-- Step 3 of the apply contract leaves the larger of the sample and the decayed peak (R112). -/
theorem decayBy_exact (st : LossyPeak ℚ) (x d : ℚ) :
    decayBy exactNumbers st x d =
      { st with mode := .decaying, peak := max x (st.peak - d / 1000000 * st.decay.value) } := by
  simp only [decayBy, exactNumbers_lt, exactNumbers_sub, exactNumbers_mul, exactNumbers_div, exactNumbers_ofNat,
    exactNumbers_ofDecimal, decide_eq_true_eq, Nat.cast_ofNat]
  split_ifs with h
  · rw [max_eq_left h.le]
  · rw [max_eq_right (not_lt.1 h)]

/-- Steps 2 and 3 for a filter that holds (R112, R113). -/
theorem belowPeak_holding {st : LossyPeak ℚ} (h : st.mode = .holding) (c : Config) (x : ℚ) (t : Nat) :
    belowPeak exactNumbers c st x t =
      if st.delayUs exactNumbers = 0 then decayBy exactNumbers st x (elapsedUs c st.tLast t)
      else if st.delayUs exactNumbers < elapsedUs c st.tPeak t then
        decayBy exactNumbers st x (elapsedUs c st.tPeak t - st.delayUs exactNumbers)
      else st := by
  simp [belowPeak, h]

/-- Step 3 for a filter that decays (R112, R113). -/
theorem belowPeak_decaying {st : LossyPeak ℚ} (h : st.mode = .decaying) (c : Config) (x : ℚ) (t : Nat) :
    belowPeak exactNumbers c st x t = decayBy exactNumbers st x (elapsedUs c st.tLast t) := by
  simp [belowPeak, h]

/-- Where the filter is at time `u` after the peak of `st₀`, the sample being `v1` since: it still holds the peak, or it is on the
decay line or has met `v1`. -/
inductive OnCourse (st₀ : LossyPeak ℚ) (v1 : ℚ) (u : Nat) : LossyPeak ℚ → Prop
  | held : ((u - st₀.tPeak : Nat) : ℚ) ≤ st₀.delayUs exactNumbers → OnCourse st₀ v1 u { st₀ with tLast := u }
  | falling (st : LossyPeak ℚ) : st₀.delayUs exactNumbers ≤ ((u - st₀.tPeak : Nat) : ℚ) → st.decay = st₀.decay →
      st.tLast = u → st.peak = max v1 (decayLine st₀ u) → (st.mode = .decaying ∨ st.peak = v1) → OnCourse st₀ v1 u st

section
variable {st₀ st : LossyPeak ℚ} {v1 : ℚ} {u t : Nat} {c : Config}

/-- The peak of a filter on its course is the answer of R115 (b). -/
theorem OnCourse.peak_eq (hv : v1 < st₀.peak) (h : OnCourse st₀ v1 u st) : st.peak = holdThenDecay st₀ v1 u := by
  unfold holdThenDecay
  cases h with
  | held hdelay => rw [if_pos hdelay]
  | falling _ hdelay _ _ hpeak _ =>
    split_ifs with hend
    · rw [hpeak, decayLine, le_antisymm hend hdelay]
      simpa using hv.le
    · exact hpeak

/-- A decay by the time beyond the delay ends on the line (R113). -/
theorem onCourse_decayBy {d : ℚ} (hdelay : st₀.delayUs exactNumbers ≤ ((t - st₀.tPeak : Nat) : ℚ))
    (hd : d = ((t - st₀.tPeak : Nat) : ℚ) - st₀.delayUs exactNumbers) :
    OnCourse st₀ v1 t { decayBy exactNumbers { st₀ with tLast := u } v1 d with tLast := t } := by
  rw [decayBy_exact, hd]
  exact .falling _ hdelay rfl rfl rfl (.inl rfl)

/-- A filter that holds its peak goes on holding it, or the delay is over and it decays. -/
theorem OnCourse.apply_held (hmode : st₀.mode = .holding) (hv : v1 < st₀.peak)
    (hdelay : ((u - st₀.tPeak : Nat) : ℚ) ≤ st₀.delayUs exactNumbers)
    (hu : st₀.tPeak ≤ u) (hut : u ≤ t) (ht : t < 2 ^ c.tw) :
    OnCourse st₀ v1 t (applyLossyPeak exactNumbers c { st₀ with tLast := u } v1 t) := by
  rw [applyLossyPeak_of_not_le (by simpa using hv), belowPeak_holding (st := { st₀ with tLast := u }) hmode,
    elapsedUs_of_le hut ht,
    elapsedUs_of_le (hu.trans hut) ht]
  split_ifs with hzero hover
  · have hzero : st₀.delayUs exactNumbers = 0 := hzero
    have hstart : u = st₀.tPeak := by
      have : u - st₀.tPeak ≤ 0 := by exact_mod_cast hdelay.trans_eq hzero
      omega
    exact onCourse_decayBy (by rw [hzero]; positivity) (by rw [hzero, hstart, sub_zero])
  · exact onCourse_decayBy (le_of_lt hover) rfl
  · exact .held (not_lt.1 hover)

/-- A filter on the line stays on it until it meets the sample, and then answers the sample. -/
theorem OnCourse.apply_falling (hdecay : 0 ≤ st₀.decay.value) (hdelay : st₀.delayUs exactNumbers ≤ ((u - st₀.tPeak : Nat) : ℚ))
    (hst : st.decay = st₀.decay) (htLast : st.tLast = u) (hpeak : st.peak = max v1 (decayLine st₀ u))
    (hmode : st.mode = .decaying ∨ st.peak = v1) (hu : st₀.tPeak ≤ u) (hut : u ≤ t) (ht : t < 2 ^ c.tw) :
    OnCourse st₀ v1 t (applyLossyPeak exactNumbers c st v1 t) := by
  have hlater : st₀.delayUs exactNumbers ≤ ((t - st₀.tPeak : Nat) : ℚ) :=
    hdelay.trans (by exact_mod_cast Nat.sub_le_sub_right hut _)
  by_cases hmet : st.peak ≤ v1
  · have hline : decayLine st₀ t ≤ v1 :=
      (decayLine_le hdecay hu hut).trans ((le_max_right _ _).trans (hpeak.ge.trans hmet))
    rw [applyLossyPeak_of_le (by simpa using hmet)]
    exact .falling _ hlater hst rfl (max_eq_left hline).symm (.inr rfl)
  · have hdecaying : st.mode = .decaying := hmode.resolve_right fun h => hmet h.le
    have hline : st.peak = decayLine st₀ u := by
      rw [hpeak, max_eq_right_iff]
      exact le_of_not_ge fun h => hmet (hpeak.le.trans (max_le le_rfl h))
    rw [applyLossyPeak_of_not_le (by simpa using hmet), belowPeak_decaying hdecaying, htLast,
      elapsedUs_of_le hut ht, decayBy_exact]
    refine .falling _ hlater hst rfl ?_ (.inl rfl)
    rw [hline, hst]
    exact congrArg (max v1) (decayLine_sub hu hut)

/-- The lower sample keeps the filter on its course. -/
theorem OnCourse.apply (h : OnCourse st₀ v1 u st) (hmode : st₀.mode = .holding) (hv : v1 < st₀.peak)
    (hdecay : 0 ≤ st₀.decay.value) (hu : st₀.tPeak ≤ u) (hut : u ≤ t) (ht : t < 2 ^ c.tw) :
    OnCourse st₀ v1 t (applyLossyPeak exactNumbers c st v1 t) := by
  cases h with
  | held hdelay => exact apply_held hmode hv hdelay hu hut ht
  | falling _ hdelay hst htLast hpeak hst' => exact apply_falling hdecay hdelay hst htLast hpeak hst' hu hut ht

/-- From a filter on its course the outputs are the answers of R115 (b). -/
theorem OnCourse.feedPeak_eq (hmode : st₀.mode = .holding) (hv : v1 < st₀.peak) (hdecay : 0 ≤ st₀.decay.value)
    {times : List Nat} (hsorted : times.Pairwise (· ≤ ·)) (hturn : ∀ t ∈ times, t < 2 ^ c.tw) (h : OnCourse st₀ v1 u st)
    (hu : st₀.tPeak ≤ u) (hlater : ∀ t ∈ times, u ≤ t) :
    feedPeak exactNumbers c st (times.map fun t => (v1, t)) = times.map (holdThenDecay st₀ v1) := by
  induction times generalizing u st with
  | nil => rfl
  | cons t rest ih =>
    obtain ⟨hfirst, hrest⟩ := List.pairwise_cons.1 hsorted
    obtain ⟨hut, -⟩ := List.forall_mem_cons.1 hlater
    obtain ⟨ht, hturnRest⟩ := List.forall_mem_cons.1 hturn
    have hnext := h.apply hmode hv hdecay hu hut ht
    rw [List.map_cons, feedPeak, List.map_cons, hnext.peak_eq hv, ih hrest hturnRest hnext (hu.trans hut) hfirst]

end

/-- Settles O50: a filter just set to its peak is on its course. -/
theorem peakFilterHoldsThenDecays : Obligations.PeakFilterHoldsThenDecays := by
  intro c st₀ v1 times hmode hstart hv hdecay hdelay hsorted htimes
  have hcourse : OnCourse st₀ v1 st₀.tLast st₀ := .held (by simpa [hstart, LossyPeak.delayUs] using hdelay)
  exact hcourse.feedPeak_eq hmode hv hdecay hsorted (fun t ht => (htimes t ht).2) hstart.ge
    fun t ht => hstart.trans_le (htimes t ht).1

end Sys2Proof.Machine

/-!
PROOF. The invariant of the joined machine (spec/43_filter_boundary.md R102, R103, R116): what the filter slots and the flags of the channels
keep under every step of the host.
-/

namespace Sys2Proof.Machine

/-- Settles O57: the arrays are made with one element per channel, and the identity has no times. -/
theorem joinedInvariantAtStart : Obligations.JoinedInvariantAtStart := fun R s h =>
  { block := h
    slots := List.length_replicate
    due := List.length_replicate
    filtered := List.length_replicate
    times := fun slot hslot => by
      rw [List.eq_of_mem_replicate hslot]
      trivial }

section
variable {R : Type}

theorem State.now_lt (s : State) : s.now < 2 ^ s.cfg.tw := Nat.mod_lt _ (by positivity)

/-- What a configuration parses to has clock values for its times (R111). -/
theorem slotOk_slotOfParsed (num : NumberType R) (reg : Registry) (name text : Text) (s : State) :
    SlotOk s.cfg (slotOfParsed (parsedConfig num reg name text s)) := by
  cases h : parsedConfig num reg name text s with
  | noState => trivial
  | malformed => trivial
  | state st =>
    obtain ⟨htLast, htPeak, -, -⟩ := parseArguments_times num reg _ text s.now st h
    exact ⟨htLast ▸ s.now_lt, htPeak ▸ s.now_lt⟩

/-- A sample leaves a filter's times clock values (R112). -/
theorem SlotOk.kept_by_applyFilter {c : Config} {slot : FilterSlot R} (h : SlotOk c slot) (num : NumberType R) (x : R)
    {t : Nat} (ht : t < 2 ^ c.tw) : SlotOk c (applyFilter num c slot x t).1 := by
  cases slot with
  | identity => trivial
  | lossyPeak st =>
    obtain ⟨-, -, htLast, htPeak⟩ := applyLossyPeak_times num c st x t
    refine ⟨htLast.trans_lt ht, ?_⟩
    obtain htPeak | htPeak := htPeak
    · exact htPeak.trans_lt ht
    · exact htPeak.trans_lt h.2

/-- Writing a slot whose times are clock values keeps those of all slots so. -/
theorem slotOk_of_mem_set {c : Config} {slots : List (FilterSlot R)} (h : ∀ slot ∈ slots, SlotOk c slot) (i : Nat)
    {new : FilterSlot R} (hnew : SlotOk c new) : ∀ slot ∈ slots.set i new, SlotOk c slot := by
  intro slot hslot
  obtain hslot | rfl := List.mem_or_eq_of_mem_set hslot
  · exact h slot hslot
  · exact hnew

theorem JoinedOk.kept_by_joinedBlockStep {j : Joined R} (h : JoinedOk j) : JoinedOk (joinedBlockStep j) := by
  obtain ⟨t, hstep⟩ := step_answers_next j.block
  have hcfg : t.cfg = j.block.cfg := step_cfg hstep
  rw [joinedBlockStep_of_next j t hstep]
  exact
    { block := registerInvariantKept _ _ h.block hstep
      slots := by simpa [hcfg] using h.slots
      due := by
        dsimp only
        split_ifs <;> simp [hcfg, h.due]
      filtered := by simpa [hcfg] using h.filtered
      times := by simpa [hcfg] using h.times }

theorem JoinedOk.kept_by_configureChannel {j : Joined R} (h : JoinedOk j) (num : NumberType R) (reg : Registry) (i : Nat)
    (name text : Text) : JoinedOk (configureChannel num reg j i name text).1 :=
  { block := h.block
    slots := by simpa using h.slots
    due := h.due
    filtered := h.filtered
    times := slotOk_of_mem_set h.times i (slotOk_slotOfParsed num reg name text j.block) }

/-- Only an existing channel is due. -/
theorem JoinedOk.lt_of_due {j : Joined R} (h : JoinedOk j) {i : Nat} (hd : readAt false j.due i = true) :
    i < j.block.cfg.n := by
  by_contra hi
  rw [readAt_of_length_le _ _ _ (by rw [h.due]; omega)] at hd
  cases hd

theorem JoinedOk.kept_by_takeSample {j : Joined R} (h : JoinedOk j) (num : NumberType R) (i : Nat) :
    JoinedOk (takeSample num j i) := by
  by_cases htaken : j.block.phase = .idle ∧ readAt false j.due i = true
  · obtain ⟨hp, hd⟩ := htaken
    have hi : i < j.block.cfg.n := h.lt_of_due hd
    rw [takeSample_of_due num j i hp hd hi]
    exact
      { block := h.block.kept_by_exec ((getFreqReadsTheFrequency j.block i).1 hi)
        slots := by simpa using h.slots
        due := by simpa using h.due
        filtered := by simpa using h.filtered
        times := slotOk_of_mem_set h.times i
          ((h.times _ (readAt_mem _ _ _ (h.slots ▸ hi))).kept_by_applyFilter num _ j.block.now_lt) }
  · rwa [takeSample, if_neg htaken]

end

/-- Settles O58: one lemma per event of the host. -/
theorem joinedInvariantKept : Obligations.JoinedInvariantKept := by
  intro R num reg j e h
  cases e with
  | block => exact h.kept_by_joinedBlockStep
  | configure i name text => exact h.kept_by_configureChannel num reg i name text
  | sample i => exact h.kept_by_takeSample num i

end Sys2Proof.Machine

/-!
PROOF. The pulse synthesizer's registers (spec/45_pulse_synthesizer.md R121 to R130): what `INIT_OUT` and an accepted `SET_FREQ` write, what a
tick does to one timing block, and from that what any number of ticks does to a stopped, a running and a just started block.
-/

namespace Sys2Proof.Machine

/-! ### `INIT_OUT` and `SET_FREQ` -/

/-- A second `INIT_OUT` is refused (R122). -/
theorem exec_initOut_of_outInit {s : State} (h : s.outInit = true) :
    exec .initOut s = .next { s with response := some { status := .errAlreadyInit, result := 0 } } := by
  simp [exec, execInitOut, h, raise_eq]

/-- Settles O30: the setup tabulates each register of the output side; each refusal is a branch of `INIT_OUT`. -/
theorem initOutBindsEveryChannel : Obligations.InitOutBindsEveryChannel := by
  refine fun s => ⟨fun ho hb hsound => ?_, exec_initOut_of_outInit, fun ho hb => ?_⟩
  · have hok : outputSetupOk s.cfg = true := by simp [outputSetupOk, hb, hsound]
    refine ⟨_, exec_initOut_eq s ho hok, fun j hj => ?_, rfl, rfl, rfl⟩
    simp [hj]
  · exact exec_initOut_of_setup_fails ho (by simp [outputSetupOk, hb])

/-- The registers that an accepted `SET_FREQ` writes (R123, R125, R126). -/
theorem exec_setFreq_writes {s : State} {j : Nat} {hz : Word} (hj : j < s.cfg.m) (hv : hzValid hz = true)
    (ho : s.outInit = true) :
    exec (.setFreq j hz) s = .next { s with
      hz := s.hz.set j hz
      hp := s.hp.set j (halfPeriod s.cfg hz)
      cd :=
        if halfPeriod s.cfg hz = 0 then s.cd.set j 0
        else if readAt 0 s.hp j = 0 then s.cd.set j (halfPeriod s.cfg hz)
        else s.cd
      out := if halfPeriod s.cfg hz = 0 then s.out.set j false else s.out
      response := some { status := .ok, result := BitVec.ofNat 32 (halfPeriod s.cfg hz) } } := by
  rw [exec_setFreq_eq s j hz hj hv ho, applyHalfPeriod_eq]
  rfl

/-- Settles O32: a write of element `j` is read back there and nowhere else. -/
theorem setFreqProgramsTheBlock : Obligations.SetFreqProgramsTheBlock := by
  intro s j hz hs hj hv ho
  refine ⟨_, exec_setFreq_writes hj hv ho, ?_, ?_, rfl, fun h0 => ?_, fun h0 hstopped => ?_, fun h0 hruns => ?_,
    fun k hk => ?_, rfl⟩
  · simp [readAt_set, hs.hz, hj]
  · simp [readAt_set, hs.hp, hj]
  · simp [readAt_set, hs.cd, hs.out, hj, h0]
  · simp [readAt_set, hs.cd, hj, h0, hstopped]
  · simp [h0, hruns]
  · simp [readAt_set, hk.symm, apply_ite (readAt 0 · k), apply_ite (readAt false · k)]

/-- Settles O33: the recorded pattern has the half-period that the block already has, and a stopped block is already low. -/
theorem repeatedSetFreqChangesNothing : Obligations.RepeatedSetFreqChangesNothing := by
  intro s j h hj ho
  obtain ⟨hv, hhp⟩ := h.commanded j hj
  obtain ⟨hstopped, -⟩ := h.blocks j hj
  rw [exec_setFreq_writes hj hv ho, ← hhp, set_readAt 0 s.hz j _ fun _ => rfl, set_readAt 0 s.hp j _ fun _ => rfl]
  by_cases h0 : readAt 0 s.hp j = 0
  · obtain ⟨hcd, hout⟩ := hstopped h0
    rw [if_pos h0, if_pos h0, set_readAt 0 s.cd j 0 fun _ => hcd, set_readAt false s.out j false fun _ => hout]
  · rw [if_neg h0, if_neg h0, if_neg h0]

/-! ### Before and after `INIT_OUT` -/

/-- A block is enabled exactly when the output side is set up (R121, R130). -/
theorem Inv.readAt_en {s : State} (h : Inv s) {j : Nat} (hj : j < s.cfg.m) : readAt false s.en j = s.outInit := by
  have hside := h.outputSide
  unfold OutputSideOk at hside
  split_ifs at hside with ho
  · obtain ⟨-, -, hen⟩ := hside
    simp [hen, hj, ho]
  · obtain ⟨-, hen, -⟩ := hside
    simp [hen, ho]

/-- Before `INIT_OUT` every block is stopped (R130). -/
theorem Inv.readAt_hp_of_not_outInit {s : State} (h : Inv s) (ho : s.outInit = false) (j : Nat) :
    readAt 0 s.hp j = 0 := by
  have hside := h.outputSide
  rw [OutputSideOk, if_neg (by simp [ho])] at hside
  obtain ⟨-, -, -, hhp, -, -⟩ := hside
  simp [hhp]

/-- A stopped block is low (R23). -/
theorem Inv.low_of_stopped {s : State} (h : Inv s) {j : Nat} (hj : j < s.cfg.m) (h0 : readAt 0 s.hp j = 0) :
    readAt false s.out j = false := by
  obtain ⟨hstopped, -⟩ := h.blocks j hj
  obtain ⟨-, hlow⟩ := hstopped h0
  exact hlow

/-! ### One tick of one block -/

theorem blockRuns_iff (s : State) (j : Nat) :
    blockRuns s j = true ↔ readAt false s.en j = true ∧ readAt 0 s.hp j ≠ 0 := by
  simp [blockRuns]

section
variable {s : State} {j : Nat} (hj : j < s.cfg.m)
include hj

/-- A running block whose count has run out toggles the pin and loads the half-period programmed now (R128). -/
theorem tick_at_of_run_out (hrun : blockRuns s j = true) (hcd : readAt 0 s.cd j ≤ 1) :
    readAt false (tick s).out j = (!readAt false s.out j) ∧ readAt 0 (tick s).cd j = readAt 0 s.hp j := by
  simp [hj, tickedOut, tickedCd, hrun, hcd]

/-- A running block counts down without moving the pin (R128). -/
theorem tick_at_of_counting (hrun : blockRuns s j = true) (hcd : 1 < readAt 0 s.cd j) :
    readAt false (tick s).out j = readAt false s.out j ∧ readAt 0 (tick s).cd j = readAt 0 s.cd j - 1 := by
  simp [hj, tickedOut, tickedCd, hrun, Nat.not_le.2 hcd]

/-- A block that does not run keeps pin and count (R128). -/
theorem tick_at_of_not_running (hrun : blockRuns s j = false) :
    readAt false (tick s).out j = readAt false s.out j ∧ readAt 0 (tick s).cd j = readAt 0 s.cd j := by
  simp [hj, tickedOut, tickedCd, hrun]

end

/-- Settles O37: the step is the tick, and each clause one case of its rule. -/
theorem tickStepsEveryBlock : Obligations.TickStepsEveryBlock := by
  intro s rest hin
  refine ⟨tick s.popped, step_of_cons s .tick rest hin, rfl, fun j hj => ⟨fun hrun hcd => ?_, fun hrun hcd => ?_,
    fun hstill => ?_⟩, by simp [tick, popped_of_cons s .tick rest hin]⟩
  · exact tick_at_of_run_out (s := s.popped) hj ((blockRuns_iff _ j).2 hrun) hcd
  · obtain ⟨hout, hcd'⟩ := tick_at_of_counting (s := s.popped) hj ((blockRuns_iff _ j).2 hrun) hcd
    exact ⟨hout, hcd' ▸ Nat.sub_add_cancel hcd.le⟩
  · refine tick_at_of_not_running (s := s.popped) hj ?_
    rcases hstill with hoff | hstop
    · simp [blockRuns, hoff]
    · simp [blockRuns, hstop]

/-! ### Any number of ticks -/

@[simp] theorem ticks_cfg (k : Nat) (s : State) : (ticks k s).cfg = s.cfg := by rw [ticks_frame]
@[simp] theorem ticks_hp (k : Nat) (s : State) : (ticks k s).hp = s.hp := by rw [ticks_frame]
@[simp] theorem ticks_en (k : Nat) (s : State) : (ticks k s).en = s.en := by rw [ticks_frame]
@[simp] theorem ticks_t (k : Nat) (s : State) : (ticks k s).t = s.t + k := by rw [ticks_frame]
@[simp] theorem blockRuns_ticks (k : Nat) (s : State) (j : Nat) : blockRuns (ticks k s) j = blockRuns s j := by
  simp [blockRuns]

theorem ticks_succ (k : Nat) (s : State) : ticks (k + 1) s = tick (ticks k s) := ticks_add k 1 s

/-- Ticks do not move a block that does not run (R128, R130). -/
theorem ticks_at_of_not_running {s : State} {j : Nat} (hj : j < s.cfg.m) (hrun : blockRuns s j = false) (k : Nat) :
    readAt false (ticks k s).out j = readAt false s.out j ∧ readAt 0 (ticks k s).cd j = readAt 0 s.cd j := by
  induction k with
  | zero => exact ⟨rfl, rfl⟩
  | succ k ih =>
    obtain ⟨hout, hcd⟩ := tick_at_of_not_running (s := ticks k s) (by simpa using hj) (by simpa using hrun)
    rw [ticks_succ, hout, hcd]
    exact ih

/-- Fewer ticks than are left in the half-period in progress count it down (R128). -/
theorem ticks_at_of_counting {s : State} {j : Nat} (hj : j < s.cfg.m) (hrun : blockRuns s j = true) {k : Nat}
    (hk : k < readAt 0 s.cd j) :
    readAt false (ticks k s).out j = readAt false s.out j ∧ readAt 0 (ticks k s).cd j = readAt 0 s.cd j - k := by
  induction k with
  | zero => exact ⟨rfl, rfl⟩
  | succ k ih =>
    obtain ⟨hout, hcd⟩ := ih (by omega)
    obtain ⟨hout', hcd'⟩ := tick_at_of_counting (s := ticks k s) (by simpa using hj) (by simpa using hrun) (by omega)
    rw [ticks_succ, hout', hcd', hout, hcd]
    exact ⟨rfl, by omega⟩

/-- The half-period in progress ends with a toggle, and the half-period programmed now is loaded (R126, R128). -/
theorem ticks_at_of_run_out {s : State} {j : Nat} (hj : j < s.cfg.m) (hrun : blockRuns s j = true)
    (hcd : 1 ≤ readAt 0 s.cd j) :
    readAt false (ticks (readAt 0 s.cd j) s).out j = (!readAt false s.out j) ∧
      readAt 0 (ticks (readAt 0 s.cd j) s).cd j = readAt 0 s.hp j := by
  obtain ⟨k, hk⟩ : ∃ k, readAt 0 s.cd j = k + 1 := ⟨_, (Nat.sub_add_cancel hcd).symm⟩
  obtain ⟨hout, hlast⟩ := ticks_at_of_counting hj hrun (k := k) (by omega)
  rw [hk, ticks_succ, ← hout, ← ticks_hp k s]
  exact tick_at_of_run_out (by simpa using hj) (by simpa using hrun) (by omega)

/-- Settles O38: the block counts down, and the last tick toggles and reloads. -/
theorem newHalfPeriodTakenUpAtNextToggle : Obligations.NewHalfPeriodTakenUpAtNextToggle := by
  intro s j hj hen hhp hcd
  have hrun : blockRuns s j = true := (blockRuns_iff s j).2 ⟨hen, hhp⟩
  exact ⟨fun k hk => (ticks_at_of_counting hj hrun hk).1, ticks_at_of_run_out hj hrun hcd⟩

/-- Settles O40: ticks do not move a block that does not run; a block is enabled exactly when the output side is set up, and every operation
keeps what setup wrote (`exec_setupKept`). -/
theorem stoppedOutputStaysLow : Obligations.StoppedOutputStaysLow := by
  intro s j h hj
  refine ⟨fun h0 k => ?_, fun ho => ?_, fun hen i t hx => ?_⟩
  · obtain ⟨hout, hcd⟩ := ticks_at_of_not_running hj (by simp [blockRuns, h0]) k
    exact ⟨hout.trans (h.low_of_stopped hj h0), hcd, by rwa [ticks_hp]⟩
  · have h0 : readAt 0 s.hp j = 0 := h.readAt_hp_of_not_outInit ho j
    exact ⟨(h.readAt_en hj).trans ho, h0, h.low_of_stopped hj h0⟩
  · have ho : s.outInit = true := (h.readAt_en hj).symm.trans hen
    obtain ⟨-, -, hkept⟩ := (exec_setupKept hx).2 ho
    rwa [hkept]

/-! ### The square wave -/

/-- A block at the start of a half-period, with `n` further ones of the same length, has toggled `n` times and is at the start of a half-period
again (R129). -/
theorem ticks_at_of_half_periods {s : State} {j : Nat} (hj : j < s.cfg.m) (hrun : blockRuns s j = true)
    (hcd : readAt 0 s.cd j = readAt 0 s.hp j) (n : Nat) :
    readAt false (ticks (readAt 0 s.hp j * n) s).out j = (readAt false s.out j ^^ decide (n % 2 = 1)) ∧
      readAt 0 (ticks (readAt 0 s.hp j * n) s).cd j = readAt 0 s.hp j := by
  obtain ⟨-, hhp⟩ := (blockRuns_iff s j).1 hrun
  induction n with
  | zero => simpa [ticks] using hcd
  | succ n ih =>
    obtain ⟨hout, hstart⟩ := ih
    have hend := ticks_at_of_run_out (s := ticks (readAt 0 s.hp j * n) s) (j := j) (by simpa using hj)
      (by simpa using hrun) (by omega)
    rw [hstart, ← ticks_add, ← Nat.mul_succ, hout, ticks_hp] at hend
    obtain ⟨hout', hstart'⟩ := hend
    refine ⟨hout'.trans ?_, hstart'⟩
    rw [← Bool.xor_not]
    congr 1
    rcases Nat.mod_two_eq_zero_or_one n with h | h <;> simp [h, Nat.add_mod]

/-- The pin of a low block at the start of a half-period, any number of ticks later (R129). -/
theorem out_ticks_of_started {s : State} {j : Nat} (hj : j < s.cfg.m) (hrun : blockRuns s j = true)
    (hcd : readAt 0 s.cd j = readAt 0 s.hp j) (hlow : readAt false s.out j = false) (k : Nat) :
    readAt false (ticks k s).out j = decide (k / readAt 0 s.hp j % 2 = 1) := by
  obtain ⟨-, hhp⟩ := (blockRuns_iff s j).1 hrun
  obtain ⟨hout, hstart⟩ := ticks_at_of_half_periods hj hrun hcd (k / readAt 0 s.hp j)
  have hrest : k % readAt 0 s.hp j < readAt 0 s.hp j := Nat.mod_lt _ (Nat.pos_of_ne_zero hhp)
  rw [hlow, Bool.false_xor] at hout
  conv_lhs => rw [← Nat.div_add_mod k (readAt 0 s.hp j), ticks_add]
  rw [← hout]
  exact (ticks_at_of_counting (by simpa using hj) (by simpa using hrun) (hstart.symm ▸ hrest)).1

/-- Settles O39: the start leaves the block low at the start of a half-period. -/
theorem startedBlockEmitsASquareWave : Obligations.StartedBlockEmitsASquareWave := by
  intro s j hz h hj ho hv hne hstopped
  obtain ⟨u, hx, -, hhp, -, -, hstart, -, -, hframe⟩ := setFreqProgramsTheBlock s j hz h.shaped hj hv ho
  obtain ⟨hcd, hout⟩ := hstart hne hstopped
  have hcfg : u.cfg = s.cfg := by rw [hframe]
  have hen : u.en = s.en := by rw [hframe]
  have ht : u.t = s.t := by rw [hframe]
  have hrun : blockRuns u j = true := (blockRuns_iff u j).2 ⟨hen ▸ (h.readAt_en hj).trans ho, hhp ▸ hne⟩
  refine ⟨u, hx, fun k => ⟨by rw [ticks_t, ht], ?_⟩⟩
  rw [← hhp]
  exact out_ticks_of_started (hcfg ▸ hj) hrun (hcd.trans hhp.symm) (hout.trans (h.low_of_stopped hj hstopped)) k

end Sys2Proof.Machine

/-!
PROOF. The operand of `SET_FREQ` in exact rational numbers (spec/45_pulse_synthesizer.md R124, R127, R131): which patterns are accepted, and the
half-period as a rounded and clamped quotient.
-/

namespace Sys2Proof.Machine

/-! ### Valid patterns -/

theorem isFinite_iff (hz : Word) : isFinite hz = true ↔ expField hz ≠ 255 := by simp [isFinite]

/-- An accepted pattern is finite, and its sign bit is 0 or its magnitude is (R124). -/
theorem hzValid_iff (hz : Word) :
    hzValid hz = true ↔ expField hz ≠ 255 ∧ (signBit hz = false ∨ magnitude (unsignedPattern hz) = 0) := by
  simp [hzValid, isFinite_iff]

/-- Of the negative patterns only `-0.0` has magnitude 0. -/
theorem magnitude_eq_zero_of_signBit {hz : Word} (h : signBit hz = true) :
    magnitude (unsignedPattern hz) = 0 ↔ hz = 0x80000000 := by
  have hlt := hz.isLt
  rw [signBit_eq, decide_eq_true_eq] at h
  rw [magnitude_eq_zero, unsignedPattern, ← BitVec.toNat_inj, show (0x80000000 : Word).toNat = 2 ^ 31 from rfl]
  omega

/-- The value is not negative exactly when the sign bit is 0 or the magnitude is. -/
theorem val32_nonneg_iff (hz : Word) :
    0 ≤ val32 hz ↔ signBit hz = false ∨ magnitude (unsignedPattern hz) = 0 := by
  have hmag : 0 ≤ (magnitude (unsignedPattern hz) : ℚ) / 2 ^ 149 := by positivity
  rw [val32_eq]
  cases signBit hz with
  | false => simpa using hmag
  | true =>
    rw [if_pos rfl, neg_one_mul, Left.nonneg_neg_iff, hmag.ge_iff_eq']
    simp

/-- Settles O34: both readings split on the sign bit; `SET_FREQ` refuses an invalid pattern at its second check and writes its registers for a
valid one. -/
theorem hzValidIsFiniteAndNotNegative : Obligations.HzValidIsFiniteAndNotNegative := by
  refine fun hz => ⟨by rw [hzValid_iff, val32_nonneg_iff], ?_, fun s j hj => ⟨fun hv => ?_, fun hv ho => ?_⟩⟩
  · rw [hzValid_iff, ← signBit]
    have hexp : hz = 0x80000000 → expField hz ≠ 255 := fun h => by rw [h]; decide
    cases hs : signBit hz with
    | false => simpa using hexp
    | true => simpa [magnitude_eq_zero_of_signBit hs] using hexp
  · obtain ⟨-, hrange, -⟩ := setFreqChecksInOrder s j hz
    exact hrange hj hv
  · exact ⟨_, _, exec_setFreq_writes hj hv ho, rfl⟩

/-! ### The half-period -/

/-- The value of an accepted pattern is its magnitude in units of `2^-149`; for `-0.0` both are 0. -/
theorem val32_of_hzValid {hz : Word} (h : hzValid hz = true) :
    val32 hz = (magnitude (unsignedPattern hz) : ℚ) / 2 ^ 149 := by
  obtain ⟨-, hsign | hmag⟩ := (hzValid_iff hz).1 h
  · simp [val32_eq, hsign]
  · simp [val32_eq, hmag]

theorem val32_eq_zero_iff {hz : Word} (h : hzValid hz = true) :
    val32 hz = 0 ↔ magnitude (unsignedPattern hz) = 0 := by
  simp [val32_of_hzValid h]

/-- The exact half-period in ticks, `1_000_000 / (2 v)` (R127). -/
def exactHalfPeriod (hz : Word) : ℚ := 1000000 / (2 * val32 hz)

/-- The machine's division rounds the exact half-period to nearest, ties upward (R127). -/
theorem floor_exactHalfPeriod {hz : Word} (h : hzValid hz = true) (hne : val32 hz ≠ 0) :
    ⌊exactHalfPeriod hz + 1 / 2⌋ =
      ((1000000 * 2 ^ 149 + magnitude (unsignedPattern hz)) / (2 * magnitude (unsignedPattern hz)) : ℕ) := by
  have hmag : (magnitude (unsignedPattern hz) : ℚ) ≠ 0 := by exact_mod_cast (val32_eq_zero_iff h).not.1 hne
  have hquot : exactHalfPeriod hz + 1 / 2 =
      ((1000000 * 2 ^ 149 + magnitude (unsignedPattern hz) : ℕ) : ℚ) / (2 * magnitude (unsignedPattern hz) : ℕ) := by
    rw [exactHalfPeriod, val32_of_hzValid h]
    push_cast
    field_simp
    norm_num
  rw [hquot, Rat.floor_natCast_div_natCast]
  norm_cast

theorem halfPeriod_of_val32_eq_zero (c : Config) {hz : Word} (h : hzValid hz = true) (h0 : val32 hz = 0) :
    halfPeriod c hz = 0 := if_pos ((val32_eq_zero_iff h).1 h0)

/-- The half-period is the exact one, rounded and clamped (R127). -/
theorem halfPeriod_eq_clamp (c : Config) {hz : Word} (h : hzValid hz = true) (hne : val32 hz ≠ 0) :
    (halfPeriod c hz : ℤ) = max 1 (min ⌊exactHalfPeriod hz + 1 / 2⌋ (2 ^ c.hpw - 1)) := by
  have hpow : 1 ≤ 2 ^ c.hpw := Nat.one_le_two_pow
  rw [floor_exactHalfPeriod h hne, halfPeriod, if_neg ((val32_eq_zero_iff h).not.1 hne), clamp]
  push_cast [hpow]
  rfl

/-- Settles O35: `halfPeriod_eq_clamp`, with the exact half-period written out. -/
theorem halfPeriodIsNearestTickCount : Obligations.HalfPeriodIsNearestTickCount := fun c _ _ h =>
  ⟨halfPeriod_of_val32_eq_zero c h, halfPeriod_eq_clamp c h⟩

/-- Away from both clamps the half-period is the exact one rounded. -/
theorem halfPeriod_eq_floor {c : Config} {hz : Word} (h : hzValid hz = true) (hne : val32 hz ≠ 0)
    (hlow : 1 / 2 ≤ exactHalfPeriod hz) (hhigh : halfPeriod c hz < 2 ^ c.hpw - 1) :
    1 ≤ halfPeriod c hz ∧ (halfPeriod c hz : ℤ) = ⌊exactHalfPeriod hz + 1 / 2⌋ := by
  have hclamp := halfPeriod_eq_clamp c h hne
  have hfloor : 1 ≤ ⌊exactHalfPeriod hz + 1 / 2⌋ := Int.le_floor.2 (by push_cast; linarith)
  have hhigh' : (halfPeriod c hz : ℤ) < 2 ^ c.hpw - 1 := by
    have : (halfPeriod c hz + 1 : ℤ) < 2 ^ c.hpw := by exact_mod_cast (by omega : halfPeriod c hz + 1 < 2 ^ c.hpw)
    omega
  omega

/-- Settles O36: rounding to nearest errs by at most half a tick, and away from the clamps nothing else is done. -/
theorem emittedHalfPeriodIsAccurate : Obligations.EmittedHalfPeriodIsAccurate := by
  intro c hz _ h hne hlow hhigh
  obtain ⟨hpos, hfloor⟩ := halfPeriod_eq_floor h hne hlow hhigh
  have hcast : (halfPeriod c hz : ℚ) = ⌊exactHalfPeriod hz + 1 / 2⌋ := by exact_mod_cast hfloor
  have herror : |(halfPeriod c hz : ℚ) - exactHalfPeriod hz| ≤ 1 / 2 := by
    have hle := Int.floor_le (exactHalfPeriod hz + 1 / 2)
    have hlt := Int.lt_floor_add_one (exactHalfPeriod hz + 1 / 2)
    rw [abs_le, hcast]
    constructor <;> linarith
  refine ⟨herror, ?_⟩
  rw [← div_div 1]
  exact div_le_div_of_nonneg_right herror (Nat.cast_nonneg _)

end Sys2Proof.Machine

/-!
PROOF. Failure (spec/60_exceptions.md R140, R141, R144, R159): no step stops the block, a command that fails is answered by `raise` and by
nothing else, and the operations of one side write no register of the other.
-/

namespace Sys2Proof.Machine

/-! ### A failed command -/

/-- Between two commands an operation of the host raises, succeeds, or starts a `POLL`, which answers nothing yet (R85, R141). -/
theorem exec_of_idle_cases {i : Instr} {s : State} (hedge : ∀ line, i ≠ .onEdge line) (hp : s.phase = .idle) :
    (∃ status, exec i s = raise s status) ∨ (∃ t result, exec i s = succeed t result) ∨
      exec i s = .next (pollAdvance { s with response := none } []) := by
  cases i with
  | onEdge line => exact absurd rfl (hedge line)
  | initIn =>
    simp only [exec, execInitIn]
    split_ifs
    · exact .inl ⟨_, rfl⟩
    · exact .inl ⟨_, rfl⟩
    · exact .inr (.inl ⟨_, _, rfl⟩)
  | initOut =>
    simp only [exec, execInitOut]
    split_ifs
    · exact .inl ⟨_, rfl⟩
    · exact .inl ⟨_, rfl⟩
    · exact .inr (.inl ⟨_, _, rfl⟩)
  | poll =>
    simp only [exec, execPoll, hp]
    split_ifs
    · exact .inl ⟨_, rfl⟩
    · exact .inr (.inr rfl)
  | setFreq j hz =>
    simp only [exec, execSetFreq]
    split_ifs
    · exact .inl ⟨_, rfl⟩
    · exact .inl ⟨_, rfl⟩
    · exact .inl ⟨_, rfl⟩
    · exact .inr (.inl ⟨_, _, rfl⟩)
  | getFreq j =>
    simp only [exec, execGetFreq]
    split_ifs
    · exact .inl ⟨_, rfl⟩
    · exact .inr (.inl ⟨_, _, rfl⟩)
  | getFlags j =>
    simp only [exec, execGetFlags]
    split_ifs
    · exact .inl ⟨_, rfl⟩
    · exact .inr (.inl ⟨_, _, rfl⟩)

/-- What `raise` answers has result 0 and writes no register (R141). -/
theorem failure_of_raise {s t : State} {status status' : Status} {r : Word} (h : raise s status' = .next t)
    (hr : t.response = some { status := status, result := r }) : r = 0 ∧ t = { s with response := t.response } := by
  cases h
  cases hr
  exact ⟨rfl, rfl⟩

/-- An operation that answers a status other than `OK` has raised it: a success says `OK`, and a `POLL` that starts says nothing. -/
theorem exec_failure {i : Instr} {s t : State} {status : Status} {r : Word} (hedge : ∀ line, i ≠ .onEdge line)
    (hp : s.phase = .idle) (h : exec i s = .next t) (hr : t.response = some { status := status, result := r })
    (hne : status ≠ .ok) : r = 0 ∧ t = { s with response := t.response } := by
  obtain ⟨status', hx⟩ | ⟨u, result, hx⟩ | hx := exec_of_idle_cases hedge hp
  · exact failure_of_raise (hx.symm.trans h) hr
  · cases hx.symm.trans h
    simp [hne.symm] at hr
  · cases hx.symm.trans h
    simp at hr

/-- Settles O41: `raise` is the only way to fail, for an operation and for a word that is none. -/
theorem failedCommandWritesNothing : Obligations.FailedCommandWritesNothing := by
  refine ⟨fun i s t status r => exec_failure, fun w s t status r hp h hr hne => ?_⟩
  unfold commandStep at h
  split at h
  · next i hi => exact exec_failure (fun line hl => decodeCommand_ne_onEdge w line (hl ▸ hi)) hp h hr hne
  · exact failure_of_raise h hr

/-! ### No step stops -/

/-- Settles O8: the step is the step of the agent that the next event names, and every agent's step answers a next state. -/
theorem everyStepAnswersANextState : Obligations.EveryStepAnswersANextState := step_answers_next

/-! ### The two sides -/

/-- Settles O43: the effects of the two output operations are updates of output registers, and no other effect is one. -/
theorem theTwoSidesAreSeparate : Obligations.TheTwoSidesAreSeparate := by
  intro i s t h
  constructor
  · rintro (rfl | ⟨j, hz, rfl⟩)
    · cases exec_effect h with
      | answered => simp
      | outputsSetUp => simp
    · cases exec_effect h with
      | answered => simp
      | frequencySet => simp
  · intro hi
    cases exec_effect h with
    | outputsSetUp => exact absurd (.inl rfl) hi
    | frequencySet j hz => exact absurd (.inr ⟨j, hz, rfl⟩) hi
    | _ => simp

end Sys2Proof.Machine
